-- ==== Sys2Proof/Word.lean ====
section
/-! DEFINITION. The machine's word and byte. Every register value, address and pc is 32 bits wide (spec 00_scope R13);
code and data bytes are 8 bits wide (20_memory R60). -/

namespace Sys2Proof

/-- A register value, an address or a pc: an unsigned 32-bit vector, arithmetic modulo 2^32 (R13). -/
abbrev Word := BitVec 32

/-- One byte of the code buffer or of data memory. -/
abbrev Byte := BitVec 8

end Sys2Proof
end

