-- ==== Sys2Proof/Config.lean ====
section
/-! DEFINITION. The static parameters of one instance (spec 00_scope R11, 10_state R50), fixed for its life, and
the one value the spec leaves entirely open, the text of an error message (93 I23). -/

namespace Sys2Proof

/-- The architecture of an instance (R2): no other value exists. -/
inductive Arch where
  | x86
  | arm
  | riscv
deriving DecidableEq, Repr

/-- The variant of a backend (R5): the subset of R3, or the placeholder that fails every call. -/
inductive Variant where
  | minimal
  | unimplemented
deriving DecidableEq, Repr

/-- The admitted values of HIGH8_LSB, the bit position of the x86 high-byte views (R11, R25, conflict C1). -/
inductive High8Lsb where
  | bit8
  | bit16
deriving DecidableEq, Repr

/-- HIGH8_LSB as a number. -/
def High8Lsb.toNat : High8Lsb → Nat
  | .bit8 => 8
  | .bit16 => 16

/-- The parameters of R11. XLEN is 32 throughout (R13, D15; log entry 7) and CODE is the input of each call. -/
structure Config where
  /-- ARCH. -/
  arch : Arch
  /-- BACKEND_ARM. -/
  backendArm : Variant
  /-- BACKEND_RISCV. -/
  backendRiscv : Variant
  /-- MEM_SIZE, the capacity of data memory in bytes. -/
  memSize : Nat
  /-- SP_RESET, the stack pointer after reset. -/
  spReset : Word
  /-- HIGH8_LSB. -/
  high8Lsb : High8Lsb
  /-- STRICT_DECODE. -/
  strictDecode : Bool
  /-- STEP_LIMIT, the ceiling of the run and debug sequences. -/
  stepLimit : Nat
  /-- SNAPSHOT_BYTES, the number of leading memory bytes in a snapshot. -/
  snapshotBytes : Nat
deriving DecidableEq, Repr

/-- R11's defaults for a given architecture. SNAPSHOT_BYTES is OPEN there: 64 is a DESIGN CHOICE (log entry 5),
unsafe, and no statement rests on it. -/
def Config.default (arch : Arch) : Config where
  arch := arch
  backendArm := .minimal
  backendRiscv := .minimal
  memSize := 0x100000
  spReset := 0x100000
  high8Lsb := .bit8
  strictDecode := false
  stepLimit := 10000
  snapshotBytes := 64

/-- The variant of the active backend (R5): the x86 backend is always the subset of R3. -/
def Config.variant (c : Config) : Variant :=
  match c.arch with
  | .x86 => .minimal
  | .arm => c.backendArm
  | .riscv => c.backendRiscv

/-- The text of an error's message, as a function of the error's own rendering: any value (R326, 93 I23).
A FREE VALUE (log entry 18): no proof can see what it is. -/
opaque Config.errorText : String → String

end Sys2Proof
end

