-- ==== Sys2Proof/Syntax.lean ====
section
/-! DEFINITION. The instructions: one constructor for each of the 32 rows of spec/opcode_table.json, and the records the
decoder gives (10_state R49). Register numbers and immediates stand here as the tables' fields; nothing after the
decoder sees an encoded word. -/

namespace Sys2Proof

/-- An x86 register code 0..7 (R22): eax ecx edx ebx esp ebp esi edi. -/
abbrev X86Reg := Fin 8

/-- An ARM general register r0..r14 (R31): register 15 is the pc and no operand (R32), so it has no code here. -/
abbrev ArmReg := Fin 15

/-- A RISC-V register x0..x31 (R35). -/
abbrev RvReg := Fin 32

/-- esp, the x86 stack pointer (R29). -/
abbrev esp : X86Reg := 4

/-- r13, the ARM stack pointer (R31). -/
abbrev armSp : ArmReg := 13

/-- r14, the ARM link register (R31). -/
abbrev armLr : ArmReg := 14

/-- x2, the RISC-V stack pointer (R35). -/
abbrev rvSp : RvReg := 2

/-- The instructions. Immediates keep the width of their encoded field; the operand values of R95, R96 and R100 are
computed from them in Machine/Operands.lean. -/
inductive Instr where
  /-- x86 `mov r32, imm32` (R140). -/
  | x86MovRI (r : X86Reg) (imm32 : Word)
  /-- x86 `mov d32, s32` (R141). -/
  | x86MovRR (d s : X86Reg)
  /-- x86 `add d32, s32` (R151). -/
  | x86AddRR (d s : X86Reg)
  /-- x86 `sub d32, s32` (R155). -/
  | x86SubRR (d s : X86Reg)
  /-- x86 `push r32` (R170). -/
  | x86Push (r : X86Reg)
  /-- x86 `pop r32` (R171). -/
  | x86Pop (r : X86Reg)
  /-- x86 `ret` (R173). -/
  | x86Ret
  /-- x86 `int imm8` (R190). -/
  | x86Int (imm8 : Byte)
  /-- x86 `jmp label` (R174). -/
  | x86Jmp (disp32 : Word)
  /-- x86 `call label` (R172). -/
  | x86Call (disp32 : Word)
  /-- x86 `nop` (R191). -/
  | x86Nop
  /-- ARM `mov rd, rm` (R202). -/
  | armMovRR (rd rm : ArmReg)
  /-- ARM `mov rd, #imm` (R203): the modified immediate of R95 is kept as its two fields. -/
  | armMovRI (rd : ArmReg) (rot : BitVec 4) (imm8 : Byte)
  /-- ARM `add rd, rn, rm` (R204). -/
  | armAddRR (rd rn rm : ArmReg)
  /-- ARM `adds rd, rn, rm` (R208). -/
  | armAddsRR (rd rn rm : ArmReg)
  /-- ARM `sub rd, rn, rm` (R210). -/
  | armSubRR (rd rn rm : ArmReg)
  /-- ARM `subs rd, rn, rm` (R212). -/
  | armSubsRR (rd rn rm : ArmReg)
  /-- ARM `push` of one register (R214). -/
  | armPush (rt : ArmReg)
  /-- ARM `pop` of one register (R216). -/
  | armPop (rt : ArmReg)
  /-- ARM `b label` (R218). -/
  | armB (imm24 : BitVec 24)
  /-- ARM `bl label` (R220). -/
  | armBL (imm24 : BitVec 24)
  /-- ARM `bx lr` (R222). -/
  | armBxLr
  /-- ARM `svc #imm24` (R224). -/
  | armSvc (imm24 : BitVec 24)
  /-- RISC-V `lui rd, imm20` (R251). -/
  | rvLui (rd : RvReg) (imm20 : BitVec 20)
  /-- RISC-V `addi rd, rs1, imm12` (R252). -/
  | rvAddi (rd rs1 : RvReg) (imm12 : BitVec 12)
  /-- RISC-V `add rd, rs1, rs2` (R253). -/
  | rvAdd (rd rs1 rs2 : RvReg)
  /-- RISC-V `sub rd, rs1, rs2` (R254). -/
  | rvSub (rd rs1 rs2 : RvReg)
  /-- RISC-V `lw rd, imm12(rs1)` (R255). -/
  | rvLw (rd rs1 : RvReg) (imm12 : BitVec 12)
  /-- RISC-V `sw rs2, imm12(rs1)` (R256). -/
  | rvSw (rs2 rs1 : RvReg) (imm12 : BitVec 12)
  /-- RISC-V `jal rd, label` (R257): bits 20..1 of the displacement, whose bit 0 is 0 (R100). -/
  | rvJal (rd : RvReg) (half : BitVec 20)
  /-- RISC-V `jalr rd, imm12(rs1)` (R258). -/
  | rvJalr (rd rs1 : RvReg) (imm12 : BitVec 12)
  /-- RISC-V `ecall` (R259). -/
  | rvEcall
deriving DecidableEq, Repr

/-- What the decoder finds at the pc (R80, R83, R92): an instruction of the table, or the unmatched record with its
opcode (x86: byte 0, zero-extended; ARM, RISC-V: the word). -/
inductive Decoded where
  | instr (i : Instr)
  | unmatched (opcode : Word)
deriving DecidableEq, Repr

/-- The decoded-instruction record of R49. The type is the row's mnemonic, or "NOP_UNMATCHED". -/
structure Record where
  opcode : Word
  operands : List Word
  size : Nat
  type : String
deriving DecidableEq, Repr

end Sys2Proof
end

