-- ==== Sys2Proof/Machine/State.lean ====
section
/-! DEFINITION. The machine's state as plain data (spec 10_state R20), its state after reset (R21, R340), and the reasons a
step can stop (60_exceptions R300). -/

namespace Sys2Proof.Machine

/-- Data memory: (address, byte) pairs in one canonical form, addresses strictly rising and no entry equal to the byte an
unlisted address reads as (Machine/Ops.lean: Memory.wf). -/
abbrev Memory := List Host.Cell

/-- The x86 flag set (R30). -/
structure X86Flags where
  CF : Bool
  PF : Bool
  ZF : Bool
  SF : Bool
  OF : Bool
deriving DecidableEq, Repr

/-- The ARM flag set (R34). -/
structure ArmFlags where
  N : Bool
  Z : Bool
  C : Bool
  V : Bool
deriving DecidableEq, Repr

/-- The state of one instance (R20). The register file and the flags of the active architecture are the fields its
instructions name; the other architectures' fields are inert (DESIGN CHOICE, safe, log entry 1). `cfg` and `code` are the
static parameters and the code buffer of the step to come: inputs of the machine held here because a step takes the state
alone (DESIGN CHOICE, safe, log entries 2 and 6). -/
structure State where
  /-- The static parameters (R11, R50). -/
  cfg : Config
  /-- CODE, the code buffer given with the step (R46). -/
  code : List Byte
  /-- The program counter (R39); ARM's r15 (R31). -/
  pc : Word
  /-- eax ecx edx ebx esp ebp esi edi (R22). -/
  x86 : Vector Word 8
  /-- The x86 flags (R30). -/
  x86Flags : X86Flags
  /-- r0..r14 (R31). -/
  arm : Vector Word 15
  /-- The ARM flags (R34). -/
  armFlags : ArmFlags
  /-- x0..x31 (R35); the cell of x0 is never read (R36). -/
  riscv : Vector Word 32
  /-- Data memory (R47, 20_memory R60). -/
  mem : Memory
deriving DecidableEq, Repr

/-- The faults of the block (R300), with what each records. A fault ends the step and leaves the state as it was (R301):
all of them are the spec's own, so stopping with one is exact and safe. -/
inductive Fault where
  /-- Raised by x86 PUSH, POP, CALL, RET, ARM PUSH, POP and RISC-V LW, SW for an access outside data memory, and by the host's
  memory write (R302, R323). Records the address and size of the access and the pc. Safe. -/
  | memoryOutOfBounds (addr : Word) (size : Nat) (pc : Word)
  /-- Raised by the step on an unmatched record under STRICT_DECODE (R304). Records the pc and the opcode. Safe. -/
  | illegalInstruction (pc opcode : Word)
  /-- Raised by ARM BX LR and RISC-V JAL, JALR for a target that is no multiple of 4 (R303). Records the pc and the target.
  Safe. -/
  | misalignedPC (pc target : Word)
  /-- Raised by every call on an Unimplemented backend, the step among them (R306). Records the architecture. Safe. -/
  | notImplemented (arch : Arch)
  /-- Raised by the registry for an unknown key (R305); no step raises it. Records the key. Safe. -/
  | unsupportedArchitecture (key : String)
deriving DecidableEq, Repr

/-- The reasons to give an instruction no meaning. -/
inductive Refusal where
  /-- Raised by exec's arm of an instruction not modelled yet; no arm raises it now. Safe. -/
  | notModelled (mnemonic : String)
deriving DecidableEq, Repr

/-- The x86 flags after reset (R21). -/
def X86Flags.clear : X86Flags := ⟨false, false, false, false, false⟩

/-- The ARM flags after reset (R21). -/
def ArmFlags.clear : ArmFlags := ⟨false, false, false, false⟩

/-- The state of a new instance with the given parameters (R21, R340): every general register 0 except the stack pointer,
which is SP_RESET; flags false; memory zero; pc 0. No code buffer has been given yet. -/
def State.construct (cfg : Config) : State where
  cfg := cfg
  code := []
  pc := 0
  x86 := (Vector.replicate 8 0).set 4 cfg.spReset
  x86Flags := .clear
  arm := (Vector.replicate 15 0).set 13 cfg.spReset
  armFlags := .clear
  riscv := (Vector.replicate 32 0).set 2 cfg.spReset
  mem := []

/-- The machine right after reset, with R11's default parameters. ARCH has no default there: x86 is a DESIGN CHOICE (log
entry 3), unsafe, and statements quantify over the parameters. -/
def State.reset : State := State.construct (Config.default .x86)

end Sys2Proof.Machine
end

