-- ==== Sys2Proof/Machine/Flags.lean ====
section
/-! DEFINITION. The flag engine: x86 (41_x86_arith R150, R152, R156) and ARM (44_arm R208, R212). -/

namespace Sys2Proof.Machine

/-- The number of one bits (00_scope R13). -/
def popcount {n : Nat} (v : BitVec n) : Nat := (List.range n).countP v.getLsbD

/-- PF: an even number of one bits in the low byte of the result (R150). -/
def parityFlag (res : Word) : Bool := popcount (res.extractLsb' 0 8) % 2 == 0

/-- Signed overflow of an addition: operands of one sign, a result of the other (R152, R208). -/
def addOverflow (a b res : Word) : Bool := a.msb == b.msb && res.msb != a.msb

/-- Signed overflow of a subtraction: operands of different signs, the result's sign not the minuend's (R156, R212). -/
def subOverflow (a b res : Word) : Bool := a.msb != b.msb && res.msb != a.msb

/-- ADD's flags (R152). -/
def x86AddFlags (a b : Word) : X86Flags where
  CF := 2 ^ 32 ≤ a.toNat + b.toNat
  PF := parityFlag (a + b)
  ZF := a + b == 0
  SF := (a + b).msb
  OF := addOverflow a b (a + b)

/-- SUB's flags (R156): CF is the borrow. -/
def x86SubFlags (a b : Word) : X86Flags where
  CF := a.toNat < b.toNat
  PF := parityFlag (a - b)
  ZF := a - b == 0
  SF := (a - b).msb
  OF := subOverflow a b (a - b)

/-- ADDS's flags (R208). -/
def armAddFlags (a b : Word) : ArmFlags where
  N := (a + b).msb
  Z := a + b == 0
  C := 2 ^ 32 ≤ a.toNat + b.toNat
  V := addOverflow a b (a + b)

/-- SUBS's flags (R212): C is NOT borrow, the opposite of the x86 CF. -/
def armSubFlags (a b : Word) : ArmFlags where
  N := (a - b).msb
  Z := a - b == 0
  C := b.toNat ≤ a.toNat
  V := subOverflow a b (a - b)

end Sys2Proof.Machine
end

