-- ==== Sys2Proof/Machine/Ops.lean ====
section
/-! DEFINITION. The named operations over registers, pc and data memory, and the one way a fault ends a step. -/

namespace Sys2Proof.Machine

/-- The outcome of a step of this machine. -/
abbrev StepOutcome := Host.Outcome State Fault Refusal

/-! ## Registers and flags -/

/-- x[i] on x86 (R22). -/
def State.x86Get (s : State) (r : X86Reg) : Word := s.x86[r]

/-- x[i] <- v on x86: the narrower views read the same cell, so they follow (R22, R28). -/
def State.x86Set (s : State) (r : X86Reg) (v : Word) : State := { s with x86 := s.x86.set r v }

/-- x[i] on ARM (R31). -/
def State.armGet (s : State) (r : ArmReg) : Word := s.arm[r]

/-- x[i] <- v on ARM (R33). -/
def State.armSet (s : State) (r : ArmReg) (v : Word) : State := { s with arm := s.arm.set r v }

/-- x[i] on RISC-V: x0 reads 0 always (R36). -/
def State.rvGet (s : State) (r : RvReg) : Word := if r = 0 then 0 else s.riscv[r]

/-- x[i] <- v on RISC-V: a write to x0 is discarded (R38). -/
def State.rvSet (s : State) (r : RvReg) (v : Word) : State :=
  { s with riscv := if r = 0 then s.riscv else s.riscv.set r v }

/-- All five x86 flags are written together (R150). -/
def State.setX86Flags (s : State) (f : X86Flags) : State := { s with x86Flags := f }

/-- All four ARM flags are written together (R208, R212). -/
def State.setArmFlags (s : State) (f : ArmFlags) : State := { s with armFlags := f }

/-- Data memory replaced. -/
def State.setMem (s : State) (m : Memory) : State := { s with mem := m }

/-! ## The program counter -/

/-- pc <- target: a control transfer; the generic advance does not follow (R41). -/
def State.jump (s : State) (target : Word) : State := { s with pc := target }

/-- The generic advance pc <- pc + size, modulo 2^32 (R40). -/
def State.advance (s : State) (size : Word) : State := s.jump (s.pc + size)

/-- An ARM or RISC-V target must be a multiple of 4 (R42): bits 1..0 are 0. -/
def aligned4 (target : Word) : Bool := target.extractLsb' 0 2 == 0#2

/-! ## Data memory, one byte at a time -/

/-- What an address nothing has written reads as: every byte is 0 after reset (R21, R73). -/
def Memory.unlisted : Byte := 0

/-- The byte at an address. -/
def Memory.read : Memory → Nat → Byte
  | [], _ => Memory.unlisted
  | (b, v) :: rest, a => if a = b then v else Memory.read rest a

/-- Store one byte, keeping the canonical form: an entry equal to the unlisted byte is left out. -/
def Memory.write : Memory → Nat → Byte → Memory
  | [], a, v => if v = Memory.unlisted then [] else [(a, v)]
  | (b, w) :: rest, a, v =>
    if a < b then (if v = Memory.unlisted then (b, w) :: rest else (a, v) :: (b, w) :: rest)
    else if a = b then (if v = Memory.unlisted then rest else (a, v) :: rest)
    else (b, w) :: Memory.write rest a v

/-- The canonical form: addresses strictly rising, no entry equal to the unlisted byte. -/
abbrev Memory.wf (m : Memory) : Prop :=
  m.Pairwise (fun c d => c.1 < d.1) ∧ ∀ c ∈ m, c.2 ≠ Memory.unlisted

/-- Every listed address lies below a bound. -/
abbrev Memory.below (m : Memory) (n : Nat) : Prop := ∀ c ∈ m, c.1 < n

/-! ## Words of data memory (R61 to R66) -/

/-- The little-endian word at addr..addr+3 (R61, R62). -/
def Memory.readWord (m : Memory) (a : Nat) : Word :=
  m.read (a + 3) ++ m.read (a + 2) ++ m.read (a + 1) ++ m.read a

/-- Store a little-endian word at addr..addr+3 (R61, R63). -/
def Memory.writeWord (m : Memory) (a : Nat) (v : Word) : Memory :=
  (((m.write a (v.extractLsb' 0 8)).write (a + 1) (v.extractLsb' 8 8)).write (a + 2) (v.extractLsb' 16 8)).write
    (a + 3) (v.extractLsb' 24 8)

/-- Store a byte list from an address upward (R323). -/
def Memory.writeBytes : Memory → Nat → List Byte → Memory
  | m, _, [] => m
  | m, a, v :: rest => Memory.writeBytes (m.write a v) (a + 1) rest

/-- An access of n bytes at addr is in bounds: u(addr) + n ≤ MEM_SIZE on unbounded integers, no wrap (R65). -/
def State.inBounds (s : State) (addr : Word) (n : Nat) : Bool := addr.toNat + n ≤ s.cfg.memSize

/-- The fault of an access out of bounds, with what R300 records. -/
def State.outOfBounds (s : State) (addr : Word) (n : Nat) : Fault := .memoryOutOfBounds addr n s.pc

/-- MemRead(addr, 4) (R62): no alignment requirement (R66). -/
def State.memRead (s : State) (addr : Word) : Except Fault Word :=
  if s.inBounds addr 4 then .ok (s.mem.readWord addr.toNat) else .error (s.outOfBounds addr 4)

/-- MemWrite(addr, 4, v) (R63): no alignment requirement (R66). -/
def State.memWrite (s : State) (addr : Word) (v : Word) : Except Fault State :=
  if s.inBounds addr 4 then .ok (s.setMem (s.mem.writeWord addr.toNat v)) else .error (s.outOfBounds addr 4)

/-! ## Raising a fault

This machine has no trap entry and no return from one (R310): nothing is saved, no mode changes and the pc goes nowhere.
Taking an exception is `raise`: the step ends, no write of it is kept, and the host sees the fault (R301). -/

/-- raise E(info) (R301). -/
def raise (f : Fault) : StepOutcome := .fault f

/-- Go on with an access's result, or raise its fault: what the instruction wrote before is discarded with it (R44, R301). -/
def attempt {α : Type} (r : Except Fault α) (k : α → StepOutcome) : StepOutcome :=
  match r with
  | .ok a => k a
  | .error f => raise f

/-- A control transfer of ARM BX LR or RISC-V JAL, JALR: raise MisalignedPC(pc, target) unless the target is a multiple of 4
(R42, R303), else go on from the state `done`, which holds the transfer's other writes, at the target. -/
def transferAligned (s : State) (target : Word) (done : State) : StepOutcome :=
  if aligned4 target then .next (done.jump target) else raise (.misalignedPC s.pc target)

end Sys2Proof.Machine
end

