-- ==== Sys2Proof/Machine/Operands.lean ====
section
/-! DEFINITION. The operand forms: the x86 register views (10_state R22 to R27), and the values of immediates, displacements
and effective addresses (30_encoding R87, R95, R96, R100). -/

namespace Sys2Proof.Machine

/-! ## x86 views, read-only (R27) -/

/-- The 16-bit view ax cx dx bx sp bp si di (R23). -/
def State.view16 (s : State) (r : X86Reg) : BitVec 16 := (s.x86Get r).extractLsb' 0 16

/-- A register that has 8-bit views: code 0..3 (R24 to R26). -/
abbrev ByteReg := Fin 4

/-- The 32-bit register an 8-bit view belongs to (R22). -/
def ByteReg.wide (r : ByteReg) : X86Reg := r.castLE (by decide)

/-- The low-8 view al cl dl bl (R24). -/
def State.viewLow8 (s : State) (r : ByteReg) : Byte := (s.x86Get r.wide).extractLsb' 0 8

/-- The high-8 view ah ch dh bh, at HIGH8_LSB (R25, conflict C1). -/
def State.viewHigh8 (s : State) (r : ByteReg) : Byte := (s.x86Get r.wide).extractLsb' s.cfg.high8Lsb.toNat 8

/-! ## Immediates and displacements -/

/-- The target of an x86 JMP or CALL: pc + 5 + disp32 modulo 2^32 (R87). -/
def x86Target (pc disp32 : Word) : Word := pc + 5 + disp32

/-- ARM's modified immediate: ROR(zext_32(imm8), 2 × u(rot)) (R95). -/
def armImm (rot : BitVec 4) (imm8 : Byte) : Word := (imm8.zeroExtend 32).rotateRight (2 * rot.toNat)

/-- ARM's branch offset: sext_32(imm24 ∥ 0b00) (R96). -/
def armOffset (imm24 : BitVec 24) : Word := (imm24 ++ 0b00#2).signExtend 32

/-- ARM's branch target: pc + 8 + offset modulo 2^32 (R96). -/
def armTarget (pc : Word) (imm24 : BitVec 24) : Word := pc + 8 + armOffset imm24

/-- immI and immS: the sign-extended 12-bit field (R100). -/
def rvImm12 (imm12 : BitVec 12) : Word := imm12.signExtend 32

/-- immU: imm20 ∥ 0^12 (R100). -/
def rvImmU (imm20 : BitVec 20) : Word := imm20 ++ 0#12

/-- immJ: the sign-extended displacement, whose bit 0 is 0 (R100). -/
def rvImmJ (half : BitVec 20) : Word := (half ++ 0#1).signExtend 32

/-- The effective address of LW and SW: x[rs1] + imm modulo 2^32 (R255, R256). -/
def State.rvAddress (s : State) (rs1 : RvReg) (imm12 : BitVec 12) : Word := s.rvGet rs1 + rvImm12 imm12

/-- JALR's target: bit 0 of x[rs1] + imm cleared (R258). -/
def State.rvJalrTarget (s : State) (rs1 : RvReg) (imm12 : BitVec 12) : Word :=
  (s.rvGet rs1 + rvImm12 imm12) &&& 0xFFFFFFFE

/-! ## The record's operand list (R49, R90, R97, R102) -/

/-- The code of a register as a record operand. -/
def codeOperand {n : Nat} (r : Fin n) : Word := BitVec.ofNat 32 r.val

/-- The operands in the order of the tables. -/
def operandsOf : Instr → List Word
  | .x86MovRI r imm32 => [codeOperand r, imm32]
  | .x86MovRR d s => [codeOperand d, codeOperand s]
  | .x86AddRR d s => [codeOperand d, codeOperand s]
  | .x86SubRR d s => [codeOperand d, codeOperand s]
  | .x86Push r => [codeOperand r]
  | .x86Pop r => [codeOperand r]
  | .x86Ret => []
  | .x86Int imm8 => [imm8.zeroExtend 32]
  | .x86Jmp disp32 => [disp32]
  | .x86Call disp32 => [disp32]
  | .x86Nop => []
  | .armMovRR rd rm => [codeOperand rd, codeOperand rm]
  | .armMovRI rd rot imm8 => [codeOperand rd, armImm rot imm8]
  | .armAddRR rd rn rm => [codeOperand rd, codeOperand rn, codeOperand rm]
  | .armAddsRR rd rn rm => [codeOperand rd, codeOperand rn, codeOperand rm]
  | .armSubRR rd rn rm => [codeOperand rd, codeOperand rn, codeOperand rm]
  | .armSubsRR rd rn rm => [codeOperand rd, codeOperand rn, codeOperand rm]
  | .armPush rt => [codeOperand rt]
  | .armPop rt => [codeOperand rt]
  | .armB imm24 => [armOffset imm24]
  | .armBL imm24 => [armOffset imm24]
  | .armBxLr => []
  | .armSvc imm24 => [imm24.zeroExtend 32]
  | .rvLui rd imm20 => [codeOperand rd, rvImmU imm20]
  | .rvAddi rd rs1 imm12 => [codeOperand rd, codeOperand rs1, rvImm12 imm12]
  | .rvAdd rd rs1 rs2 => [codeOperand rd, codeOperand rs1, codeOperand rs2]
  | .rvSub rd rs1 rs2 => [codeOperand rd, codeOperand rs1, codeOperand rs2]
  | .rvLw rd rs1 imm12 => [codeOperand rd, codeOperand rs1, rvImm12 imm12]
  | .rvSw rs2 rs1 imm12 => [codeOperand rs2, codeOperand rs1, rvImm12 imm12]
  | .rvJal rd half => [codeOperand rd, rvImmJ half]
  | .rvJalr rd rs1 imm12 => [codeOperand rd, codeOperand rs1, rvImm12 imm12]
  | .rvEcall => []

end Sys2Proof.Machine
end

