-- ==== Sys2Proof/Machine/Arm.lean ====
section
/-! DEFINITION. The ARM subset (spec 44_arm). Only ADDS and SUBS write flags; every instruction is 4 bytes long. -/

namespace Sys2Proof.Machine

/-- MOV_RR, `mov rd, rm` (R202). -/
def execArmMovRR (rd rm : ArmReg) (s : State) : StepOutcome :=
  .next ((s.armSet rd (s.armGet rm)).advance 4)

/-- MOV_RI, `mov rd, #imm` (R203, R95). -/
def execArmMovRI (rd : ArmReg) (rot : BitVec 4) (imm8 : Byte) (s : State) : StepOutcome :=
  .next ((s.armSet rd (armImm rot imm8)).advance 4)

/-- ADD_RR, `add rd, rn, rm` (R204): no flags. -/
def execArmAddRR (rd rn rm : ArmReg) (s : State) : StepOutcome :=
  .next ((s.armSet rd (s.armGet rn + s.armGet rm)).advance 4)

/-- ADDS_RR, `adds rd, rn, rm` (R208). -/
def execArmAddsRR (rd rn rm : ArmReg) (s : State) : StepOutcome :=
  let a := s.armGet rn
  let b := s.armGet rm
  .next (((s.armSet rd (a + b)).setArmFlags (armAddFlags a b)).advance 4)

/-- SUB_RR, `sub rd, rn, rm` (R210): no flags. -/
def execArmSubRR (rd rn rm : ArmReg) (s : State) : StepOutcome :=
  .next ((s.armSet rd (s.armGet rn - s.armGet rm)).advance 4)

/-- SUBS_RR, `subs rd, rn, rm` (R212). -/
def execArmSubsRR (rd rn rm : ArmReg) (s : State) : StepOutcome :=
  let a := s.armGet rn
  let b := s.armGet rm
  .next (((s.armSet rd (a - b)).setArmFlags (armSubFlags a b)).advance 4)

/-- The stack slot PUSH stores to: sp - 4 modulo 2^32 (R214). -/
def State.armPushSlot (s : State) : Word := s.armGet armSp - 4

/-- PUSH of one register (R214): store it at sp - 4, then move sp there. -/
def execArmPush (rt : ArmReg) (s : State) : StepOutcome :=
  attempt (s.memWrite s.armPushSlot (s.armGet rt)) fun t => .next ((t.armSet armSp s.armPushSlot).advance 4)

/-- POP of one register (R216). -/
def execArmPop (rt : ArmReg) (s : State) : StepOutcome :=
  attempt (s.memRead (s.armGet armSp)) fun v =>
    .next (((s.armSet armSp (s.armGet armSp + 4)).armSet rt v).advance 4)

/-- B, `b label` (R218). -/
def execArmB (imm24 : BitVec 24) (s : State) : StepOutcome :=
  .next (s.jump (armTarget s.pc imm24))

/-- BL, `bl label` (R220): lr takes pc + 4. -/
def execArmBL (imm24 : BitVec 24) (s : State) : StepOutcome :=
  .next ((s.armSet armLr (s.pc + 4)).jump (armTarget s.pc imm24))

/-- BX_LR, `bx lr` (R222): MisalignedPC unless lr is a multiple of 4. -/
def execArmBxLr (s : State) : StepOutcome :=
  transferAligned s (s.armGet armLr) s

/-- SVC, `svc #imm24` (R224): observed only; nothing changes but the pc. -/
def execArmSvc (_imm24 : BitVec 24) (s : State) : StepOutcome :=
  .next (s.advance 4)

end Sys2Proof.Machine
end

