-- ==== Sys2Proof/Machine/Riscv.lean ====
section
/-! DEFINITION. The RISC-V subset (spec 45_riscv). There are no flags; every instruction is 4 bytes long; a write to x0 is
discarded by the register write itself (R38). -/

namespace Sys2Proof.Machine

/-- LUI, `lui rd, imm20` (R251). -/
def execRvLui (rd : RvReg) (imm20 : BitVec 20) (s : State) : StepOutcome :=
  .next ((s.rvSet rd (rvImmU imm20)).advance 4)

/-- ADDI, `addi rd, rs1, imm12` (R252). -/
def execRvAddi (rd rs1 : RvReg) (imm12 : BitVec 12) (s : State) : StepOutcome :=
  .next ((s.rvSet rd (s.rvGet rs1 + rvImm12 imm12)).advance 4)

/-- ADD, `add rd, rs1, rs2` (R253). -/
def execRvAdd (rd rs1 rs2 : RvReg) (s : State) : StepOutcome :=
  .next ((s.rvSet rd (s.rvGet rs1 + s.rvGet rs2)).advance 4)

/-- SUB, `sub rd, rs1, rs2` (R254). -/
def execRvSub (rd rs1 rs2 : RvReg) (s : State) : StepOutcome :=
  .next ((s.rvSet rd (s.rvGet rs1 - s.rvGet rs2)).advance 4)

/-- LW, `lw rd, imm12(rs1)` (R255): with rd = x0 the read is still made and can still fault. -/
def execRvLw (rd rs1 : RvReg) (imm12 : BitVec 12) (s : State) : StepOutcome :=
  attempt (s.memRead (s.rvAddress rs1 imm12)) fun v => .next ((s.rvSet rd v).advance 4)

/-- SW, `sw rs2, imm12(rs1)` (R256). -/
def execRvSw (rs2 rs1 : RvReg) (imm12 : BitVec 12) (s : State) : StepOutcome :=
  attempt (s.memWrite (s.rvAddress rs1 imm12) (s.rvGet rs2)) fun t => .next (t.advance 4)

/-- JAL, `jal rd, label` (R257): rd is not written when the target is misaligned. -/
def execRvJal (rd : RvReg) (half : BitVec 20) (s : State) : StepOutcome :=
  transferAligned s (s.pc + rvImmJ half) (s.rvSet rd (s.pc + 4))

/-- JALR, `jalr rd, imm12(rs1)` (R258): the target is read before rd is written. -/
def execRvJalr (rd rs1 : RvReg) (imm12 : BitVec 12) (s : State) : StepOutcome :=
  transferAligned s (s.rvJalrTarget rs1 imm12) (s.rvSet rd (s.pc + 4))

/-- ECALL, `ecall` (R259): observed only; nothing changes but the pc. -/
def execRvEcall (s : State) : StepOutcome :=
  .next (s.advance 4)

end Sys2Proof.Machine
end

