-- ==== Sys2Proof/Machine/X86Arith.lean ====
section
/-! DEFINITION. x86 ADD and SUB (spec 41_x86_arith): both write all five flags; overflow never traps (R157). -/

namespace Sys2Proof.Machine

/-- ADD_RR, `add d32, s32` (R151, flags R152). -/
def execX86AddRR (d src : X86Reg) (s : State) : StepOutcome :=
  let a := s.x86Get d
  let b := s.x86Get src
  .next (((s.x86Set d (a + b)).setX86Flags (x86AddFlags a b)).advance 2)

/-- SUB_RR, `sub d32, s32` (R155, flags R156). -/
def execX86SubRR (d src : X86Reg) (s : State) : StepOutcome :=
  let a := s.x86Get d
  let b := s.x86Get src
  .next (((s.x86Set d (a - b)).setX86Flags (x86SubFlags a b)).advance 2)

end Sys2Proof.Machine
end

