-- ==== Sys2Proof/Machine/X86Move.lean ====
section
/-! DEFINITION. x86 data movement (spec 40_x86_move). No flag is written and no fault can arise. -/

namespace Sys2Proof.Machine

/-- MOV_RI, `mov r32, imm32` (R140). -/
def execX86MovRI (r : X86Reg) (imm32 : Word) (s : State) : StepOutcome :=
  .next ((s.x86Set r imm32).advance 5)

/-- MOV_RR, `mov d32, s32` (R141). -/
def execX86MovRR (d src : X86Reg) (s : State) : StepOutcome :=
  .next ((s.x86Set d (s.x86Get src)).advance 2)

end Sys2Proof.Machine
end

