-- ==== Sys2Proof/Machine/X86Stack.lean ====
section
/-! DEFINITION. x86 stack and control transfer (spec 42_x86_stack_control). No flag is written. -/

namespace Sys2Proof.Machine

/-- The stack slot a PUSH or CALL stores to: esp - 4 modulo 2^32 (R170, R172). -/
def State.x86PushSlot (s : State) : Word := s.x86Get esp - 4

/-- Push v: store it at esp - 4, then move esp there (R170, R172). -/
def State.x86PushWord (s : State) (v : Word) : Except Fault State :=
  match s.memWrite s.x86PushSlot v with
  | .ok t => .ok (t.x86Set esp s.x86PushSlot)
  | .error f => .error f

/-- PUSH, `push r32` (R170): the value is read before esp changes. -/
def execX86Push (r : X86Reg) (s : State) : StepOutcome :=
  attempt (s.x86PushWord (s.x86Get r)) fun t => .next (t.advance 1)

/-- POP, `pop r32` (R171): esp moves first, so `pop esp` leaves the value read. -/
def execX86Pop (r : X86Reg) (s : State) : StepOutcome :=
  attempt (s.memRead (s.x86Get esp)) fun v =>
    .next (((s.x86Set esp (s.x86Get esp + 4)).x86Set r v).advance 1)

/-- RET, `ret` (R173): pop one word into the pc. -/
def execX86Ret (s : State) : StepOutcome :=
  attempt (s.memRead (s.x86Get esp)) fun t => .next ((s.x86Set esp (s.x86Get esp + 4)).jump t)

/-- JMP, `jmp label` (R174). -/
def execX86Jmp (disp32 : Word) (s : State) : StepOutcome :=
  .next (s.jump (x86Target s.pc disp32))

/-- CALL, `call label` (R172): push pc + 5, go to the target. -/
def execX86Call (disp32 : Word) (s : State) : StepOutcome :=
  attempt (s.x86PushWord (s.pc + 5)) fun t => .next (t.jump (x86Target s.pc disp32))

end Sys2Proof.Machine
end

