-- ==== Sys2Proof/Machine/X86System.lean ====
section
/-! DEFINITION. x86 software interrupt and no-op (spec 43_x86_system). -/

namespace Sys2Proof.Machine

/-- INT, `int imm8` (R190, conflict C7): observed only; nothing changes but the pc. -/
def execX86Int (_imm8 : Byte) (s : State) : StepOutcome :=
  .next (s.advance 2)

/-- NOP, `nop` (R191). -/
def execX86Nop (s : State) : StepOutcome :=
  .next (s.advance 1)

end Sys2Proof.Machine
end

