-- ==== Sys2Proof/Machine/Dispatch.lean ====
section
/-! DEFINITION. The execution unit: one arm for each instruction, each one call of its meaning. An instruction of an
architecture that is not the active one would act on its own architecture's registers; no step gives one (log entry 9). -/

namespace Sys2Proof.Machine

def exec (i : Instr) (s : State) : Host.Outcome State Fault Refusal :=
  match i with
  | .x86MovRI r imm32 => Sys2Proof.Machine.execX86MovRI r imm32 s
  | .x86MovRR d src => Sys2Proof.Machine.execX86MovRR d src s
  | .x86AddRR d src => Sys2Proof.Machine.execX86AddRR d src s
  | .x86SubRR d src => Sys2Proof.Machine.execX86SubRR d src s
  | .x86Push r => Sys2Proof.Machine.execX86Push r s
  | .x86Pop r => Sys2Proof.Machine.execX86Pop r s
  | .x86Ret => Sys2Proof.Machine.execX86Ret s
  | .x86Int imm8 => Sys2Proof.Machine.execX86Int imm8 s
  | .x86Jmp disp32 => Sys2Proof.Machine.execX86Jmp disp32 s
  | .x86Call disp32 => Sys2Proof.Machine.execX86Call disp32 s
  | .x86Nop => Sys2Proof.Machine.execX86Nop s
  | .armMovRR rd rm => Sys2Proof.Machine.execArmMovRR rd rm s
  | .armMovRI rd rot imm8 => Sys2Proof.Machine.execArmMovRI rd rot imm8 s
  | .armAddRR rd rn rm => Sys2Proof.Machine.execArmAddRR rd rn rm s
  | .armAddsRR rd rn rm => Sys2Proof.Machine.execArmAddsRR rd rn rm s
  | .armSubRR rd rn rm => Sys2Proof.Machine.execArmSubRR rd rn rm s
  | .armSubsRR rd rn rm => Sys2Proof.Machine.execArmSubsRR rd rn rm s
  | .armPush rt => Sys2Proof.Machine.execArmPush rt s
  | .armPop rt => Sys2Proof.Machine.execArmPop rt s
  | .armB imm24 => Sys2Proof.Machine.execArmB imm24 s
  | .armBL imm24 => Sys2Proof.Machine.execArmBL imm24 s
  | .armBxLr => Sys2Proof.Machine.execArmBxLr s
  | .armSvc imm24 => Sys2Proof.Machine.execArmSvc imm24 s
  | .rvLui rd imm20 => Sys2Proof.Machine.execRvLui rd imm20 s
  | .rvAddi rd rs1 imm12 => Sys2Proof.Machine.execRvAddi rd rs1 imm12 s
  | .rvAdd rd rs1 rs2 => Sys2Proof.Machine.execRvAdd rd rs1 rs2 s
  | .rvSub rd rs1 rs2 => Sys2Proof.Machine.execRvSub rd rs1 rs2 s
  | .rvLw rd rs1 imm12 => Sys2Proof.Machine.execRvLw rd rs1 imm12 s
  | .rvSw rs2 rs1 imm12 => Sys2Proof.Machine.execRvSw rs2 rs1 imm12 s
  | .rvJal rd half => Sys2Proof.Machine.execRvJal rd half s
  | .rvJalr rd rs1 imm12 => Sys2Proof.Machine.execRvJalr rd rs1 imm12 s
  | .rvEcall => Sys2Proof.Machine.execRvEcall s

end Sys2Proof.Machine
end

