-- ==== Sys2Proof/WellFormed.lean ====
section
/-! DEFINITION. Which instruction terms an encoding exists for. Register fields are bounded by their types, so the
one check left is ARM's: Rt of PUSH and POP is not r13 (spec 30_encoding R97, 44_arm R201). -/

namespace Sys2Proof

/-- An instruction the tables can encode. -/
def Instr.wellFormed : Instr → Bool
  | .armPush rt => rt != armSp
  | .armPop rt => rt != armSp
  | .x86MovRI _ _ | .x86MovRR _ _ | .x86AddRR _ _ | .x86SubRR _ _ | .x86Push _ | .x86Pop _ | .x86Ret | .x86Int _
  | .x86Jmp _ | .x86Call _ | .x86Nop => true
  | .armMovRR _ _ | .armMovRI _ _ _ | .armAddRR _ _ _ | .armAddsRR _ _ _ | .armSubRR _ _ _ | .armSubsRR _ _ _
  | .armB _ | .armBL _ | .armBxLr | .armSvc _ => true
  | .rvLui _ _ | .rvAddi _ _ _ | .rvAdd _ _ _ | .rvSub _ _ _ | .rvLw _ _ _ | .rvSw _ _ _ | .rvJal _ _
  | .rvJalr _ _ _ | .rvEcall => true

end Sys2Proof
end

