-- ==== Sys2Proof/Decode.lean ====
section
/-! DEFINITION. The decoder (spec 30_encoding sections 1 to 5), total on any bytes, and after it the encoder, written from
the format tables. The decoder follows the opcode tables as rows of match and mask (R83, R90, R97, R102); the encoder lays
out the fields of the formats (R84, R94, R99); that the two agree is a statement, not a definition. -/

namespace Sys2Proof

/-! ## The code buffer as the decoder reads it -/

/-- CodeByte(a): the byte of the code buffer at offset a, or 0 at or past its end (R81, 00_scope R14). -/
def codeByte (code : List Byte) (a : Word) : Byte :=
  code.getD a.toNat 0

/-- The bytes at the pc that a decode can read: the longest instruction has five (R84, R104). -/
def fetchBytes (code : List Byte) (pc : Word) : List Byte :=
  [codeByte code pc, codeByte code (pc + 1), codeByte code (pc + 2), codeByte code (pc + 3), codeByte code (pc + 4)]

/-- Byte k of a byte string, 0 where it is missing (R81). -/
def byteAt (bytes : List Byte) (k : Nat) : Byte :=
  bytes.getD k 0

/-- The little-endian 32-bit value of the bytes k..k+3 (R69, R87). -/
def wordAt (bytes : List Byte) (k : Nat) : Word :=
  byteAt bytes (k + 3) ++ byteAt bytes (k + 2) ++ byteAt bytes (k + 1) ++ byteAt bytes k

/-- The four bytes of a word, the least significant first (R61, R69). -/
def leBytes (v : Word) : List Byte :=
  [v.extractLsb' 0 8, v.extractLsb' 8 8, v.extractLsb' 16 8, v.extractLsb' 24 8]

/-! ## Rows -/

/-- A row of an opcode table: it matches when the bits ANDed with the mask equal the match value; `build` extracts the
operand fields and answers none where an extra constraint of the row fails (R83). -/
structure Row (n : Nat) where
  value : BitVec n
  mask : BitVec n
  build : BitVec n → Option Instr

/-- The match test of R83, extra constraints apart. -/
def Row.hits {n : Nat} (r : Row n) (w : BitVec n) : Bool :=
  w &&& r.mask == r.value

/-- The first matching row gives the instruction (R83). -/
def decodeRows {n : Nat} (rows : List (Row n)) (w : BitVec n) : Option Instr :=
  rows.findSome? fun r => if r.hits w then r.build w else none

/-! ## x86 (R84 to R91)

The x86 window is the five bytes at the pc as one 40-bit value, byte 0 in bits 7..0. -/

/-- The five-byte window, byte 0 least significant. -/
def x86Window (bytes : List Byte) : BitVec 40 :=
  wordAt bytes 1 ++ byteAt bytes 0

/-- A 3-bit x86 register code at bit lo of the window (R85, R86). -/
def x86Field (w : BitVec 40) (lo : Nat) : X86Reg :=
  (w.extractLsb' lo 3).toFin

/-- imm32 or disp32: bytes 1..4, little-endian (R87). -/
def x86Imm32 (w : BitVec 40) : Word :=
  w.extractLsb' 8 32

/-- The x86 opcode table (R90). ModRM is byte 1: rm = d in its bits 2..0, reg = s in its bits 5..3, mod = 0b11 (R85). -/
def x86Rows : List (Row 40) := [
  ⟨0xB8, 0xF8, fun w => some (.x86MovRI (x86Field w 0) (x86Imm32 w))⟩,
  ⟨0xC089, 0xC0FF, fun w => some (.x86MovRR (x86Field w 8) (x86Field w 11))⟩,
  ⟨0xC001, 0xC0FF, fun w => some (.x86AddRR (x86Field w 8) (x86Field w 11))⟩,
  ⟨0xC029, 0xC0FF, fun w => some (.x86SubRR (x86Field w 8) (x86Field w 11))⟩,
  ⟨0x50, 0xF8, fun w => some (.x86Push (x86Field w 0))⟩,
  ⟨0x58, 0xF8, fun w => some (.x86Pop (x86Field w 0))⟩,
  ⟨0xC3, 0xFF, fun _ => some .x86Ret⟩,
  ⟨0xCD, 0xFF, fun w => some (.x86Int (w.extractLsb' 8 8))⟩,
  ⟨0xE9, 0xFF, fun w => some (.x86Jmp (x86Imm32 w))⟩,
  ⟨0xE8, 0xFF, fun w => some (.x86Call (x86Imm32 w))⟩,
  ⟨0x90, 0xFF, fun _ => some .x86Nop⟩]

/-- The x86 decode. -/
def decodeX86 (bytes : List Byte) : Option Instr :=
  decodeRows x86Rows (x86Window bytes)

/-! ## ARM (R94 to R98) -/

/-- The 4-bit ARM register field at bit lo; 15 names no general register (R32, R201). -/
def armField (w : Word) (lo : Nat) : Option ArmReg :=
  let n := (w.extractLsb' lo 4).toNat
  if h : n < 15 then some ⟨n, h⟩ else none

/-- Two ARM register fields, both general registers. -/
def armFields2 (w : Word) (hi lo : Nat) (k : ArmReg → ArmReg → Instr) : Option Instr :=
  match armField w hi, armField w lo with
  | some a, some b => some (k a b)
  | _, _ => none

/-- Rd, Rn and Rm of a register data-processing word, all general registers. -/
def armFields3 (w : Word) (k : ArmReg → ArmReg → ArmReg → Instr) : Option Instr :=
  match armField w 12, armField w 16, armField w 0 with
  | some rd, some rn, some rm => some (k rd rn rm)
  | _, _, _ => none

/-- Rt of PUSH and POP: a general register other than r13 (R97, R201). -/
def armStackField (w : Word) (k : ArmReg → Instr) : Option Instr :=
  match armField w 12 with
  | some rt => if rt = armSp then none else some (k rt)
  | none => none

/-- The ARM opcode table (R97). -/
def armRows : List (Row 32) := [
  ⟨0xE1A00000, 0xFFFF0FF0, fun w => armFields2 w 12 0 .armMovRR⟩,
  ⟨0xE3A00000, 0xFFFF0000, fun w => (armField w 12).map (.armMovRI · (w.extractLsb' 8 4) (w.extractLsb' 0 8))⟩,
  ⟨0xE0800000, 0xFFF00FF0, fun w => armFields3 w .armAddRR⟩,
  ⟨0xE0900000, 0xFFF00FF0, fun w => armFields3 w .armAddsRR⟩,
  ⟨0xE0400000, 0xFFF00FF0, fun w => armFields3 w .armSubRR⟩,
  ⟨0xE0500000, 0xFFF00FF0, fun w => armFields3 w .armSubsRR⟩,
  ⟨0xE52D0004, 0xFFFF0FFF, fun w => armStackField w .armPush⟩,
  ⟨0xE49D0004, 0xFFFF0FFF, fun w => armStackField w .armPop⟩,
  ⟨0xEA000000, 0xFF000000, fun w => some (.armB (w.extractLsb' 0 24))⟩,
  ⟨0xEB000000, 0xFF000000, fun w => some (.armBL (w.extractLsb' 0 24))⟩,
  ⟨0xE12FFF1E, 0xFFFFFFFF, fun _ => some .armBxLr⟩,
  ⟨0xEF000000, 0xFF000000, fun w => some (.armSvc (w.extractLsb' 0 24))⟩]

/-- The ARM decode of an instruction word. -/
def decodeArm (w : Word) : Option Instr :=
  decodeRows armRows w

/-! ## RISC-V (R99 to R103) -/

/-- The 5-bit RISC-V register field at bit lo. -/
def rvField (w : Word) (lo : Nat) : RvReg :=
  (w.extractLsb' lo 5).toFin

/-- rd (R99). -/
def rvRd (w : Word) : RvReg := rvField w 7

/-- rs1 (R99). -/
def rvRs1 (w : Word) : RvReg := rvField w 15

/-- rs2 (R99). -/
def rvRs2 (w : Word) : RvReg := rvField w 20

/-- The 12-bit field of the I format (R99, R100). -/
def rvImmIField (w : Word) : BitVec 12 :=
  w.extractLsb' 20 12

/-- The 12-bit field of the S format (R99, R100). -/
def rvImmSField (w : Word) : BitVec 12 :=
  w.extractLsb' 25 7 ++ w.extractLsb' 7 5

/-- Bits 20..1 of the J format's displacement (R99, R100). -/
def rvImmJField (w : Word) : BitVec 20 :=
  w.extractLsb' 31 1 ++ w.extractLsb' 12 8 ++ w.extractLsb' 20 1 ++ w.extractLsb' 21 10

/-- The RISC-V opcode table (R102). -/
def rvRows : List (Row 32) := [
  ⟨0x00000037, 0x0000007F, fun w => some (.rvLui (rvRd w) (w.extractLsb' 12 20))⟩,
  ⟨0x00000013, 0x0000707F, fun w => some (.rvAddi (rvRd w) (rvRs1 w) (rvImmIField w))⟩,
  ⟨0x00000033, 0xFE00707F, fun w => some (.rvAdd (rvRd w) (rvRs1 w) (rvRs2 w))⟩,
  ⟨0x40000033, 0xFE00707F, fun w => some (.rvSub (rvRd w) (rvRs1 w) (rvRs2 w))⟩,
  ⟨0x00002003, 0x0000707F, fun w => some (.rvLw (rvRd w) (rvRs1 w) (rvImmIField w))⟩,
  ⟨0x00002023, 0x0000707F, fun w => some (.rvSw (rvRs2 w) (rvRs1 w) (rvImmSField w))⟩,
  ⟨0x0000006F, 0x0000007F, fun w => some (.rvJal (rvRd w) (rvImmJField w))⟩,
  ⟨0x00000067, 0x0000707F, fun w => some (.rvJalr (rvRd w) (rvRs1 w) (rvImmIField w))⟩,
  ⟨0x00000073, 0xFFFFFFFF, fun _ => some .rvEcall⟩]

/-- The RISC-V decode of an instruction word. -/
def decodeRiscv (w : Word) : Option Instr :=
  decodeRows rvRows w

/-! ## The decoder -/

/-- The opcode of R49: byte 0 on x86, the 32-bit word on ARM and RISC-V. -/
def opcodeOf (arch : Arch) (bytes : List Byte) : Word :=
  match arch with
  | .x86 => (byteAt bytes 0).zeroExtend 32
  | .arm | .riscv => wordAt bytes 0

/-- The matching row's instruction, none where no row of the architecture's table matches. -/
def decodeInstr (arch : Arch) (bytes : List Byte) : Option Instr :=
  match arch with
  | .x86 => decodeX86 bytes
  | .arm => decodeArm (wordAt bytes 0)
  | .riscv => decodeRiscv (wordAt bytes 0)

/-- The decode of a byte string, missing bytes read as 0 (R80, R81, R83, R92): total, and it never fails. -/
def decodeBytes (arch : Arch) (bytes : List Byte) : Decoded :=
  match decodeInstr arch bytes with
  | some i => .instr i
  | none => .unmatched (opcodeOf arch bytes)

/-- decode(CODE, pc) (R80). -/
def decode (arch : Arch) (code : List Byte) (pc : Word) : Decoded :=
  decodeBytes arch (fetchBytes code pc)

/-- UNIT, the size of the unmatched no-op (R92, conflict C4). -/
def Arch.unit : Arch → Nat
  | .x86 => 1
  | .arm | .riscv => 4

/-- The architecture whose table holds the instruction. -/
def Instr.arch : Instr → Arch
  | .x86MovRI _ _ | .x86MovRR _ _ | .x86AddRR _ _ | .x86SubRR _ _ | .x86Push _ | .x86Pop _ | .x86Ret | .x86Int _
  | .x86Jmp _ | .x86Call _ | .x86Nop => .x86
  | .armMovRR _ _ | .armMovRI _ _ _ | .armAddRR _ _ _ | .armAddsRR _ _ _ | .armSubRR _ _ _ | .armSubsRR _ _ _
  | .armPush _ | .armPop _ | .armB _ | .armBL _ | .armBxLr | .armSvc _ => .arm
  | .rvLui _ _ | .rvAddi _ _ _ | .rvAdd _ _ _ | .rvSub _ _ _ | .rvLw _ _ _ | .rvSw _ _ _ | .rvJal _ _
  | .rvJalr _ _ _ | .rvEcall => .riscv

/-- The size in bytes (R49, R90, R97, R102, R104). -/
def Instr.size : Instr → Nat
  | .x86MovRI _ _ | .x86Jmp _ | .x86Call _ => 5
  | .x86MovRR _ _ | .x86AddRR _ _ | .x86SubRR _ _ | .x86Int _ => 2
  | .x86Push _ | .x86Pop _ | .x86Ret | .x86Nop => 1
  | .armMovRR _ _ | .armMovRI _ _ _ | .armAddRR _ _ _ | .armAddsRR _ _ _ | .armSubRR _ _ _ | .armSubsRR _ _ _
  | .armPush _ | .armPop _ | .armB _ | .armBL _ | .armBxLr | .armSvc _ => 4
  | .rvLui _ _ | .rvAddi _ _ _ | .rvAdd _ _ _ | .rvSub _ _ _ | .rvLw _ _ _ | .rvSw _ _ _ | .rvJal _ _
  | .rvJalr _ _ _ | .rvEcall => 4

/-- The row's type tag (R49). -/
def Instr.mnemonic : Instr → String
  | .x86MovRI _ _ => "MOV_RI"
  | .x86MovRR _ _ => "MOV_RR"
  | .x86AddRR _ _ => "ADD_RR"
  | .x86SubRR _ _ => "SUB_RR"
  | .x86Push _ => "PUSH"
  | .x86Pop _ => "POP"
  | .x86Ret => "RET"
  | .x86Int _ => "INT"
  | .x86Jmp _ => "JMP"
  | .x86Call _ => "CALL"
  | .x86Nop => "NOP"
  | .armMovRR _ _ => "MOV_RR"
  | .armMovRI _ _ _ => "MOV_RI"
  | .armAddRR _ _ _ => "ADD_RR"
  | .armAddsRR _ _ _ => "ADDS_RR"
  | .armSubRR _ _ _ => "SUB_RR"
  | .armSubsRR _ _ _ => "SUBS_RR"
  | .armPush _ => "PUSH"
  | .armPop _ => "POP"
  | .armB _ => "B"
  | .armBL _ => "BL"
  | .armBxLr => "BX_LR"
  | .armSvc _ => "SVC"
  | .rvLui _ _ => "LUI"
  | .rvAddi _ _ _ => "ADDI"
  | .rvAdd _ _ _ => "ADD"
  | .rvSub _ _ _ => "SUB"
  | .rvLw _ _ _ => "LW"
  | .rvSw _ _ _ => "SW"
  | .rvJal _ _ => "JAL"
  | .rvJalr _ _ _ => "JALR"
  | .rvEcall => "ECALL"

/-! ## The encoder -/

/-- The 3-bit code of an x86 register. -/
def x86Code (r : X86Reg) : BitVec 3 := BitVec.ofFin r

/-- The 4-bit code of an ARM register. -/
def armCode (r : ArmReg) : BitVec 4 := BitVec.ofNat 4 r.val

/-- The 5-bit code of a RISC-V register. -/
def rvCode (r : RvReg) : BitVec 5 := BitVec.ofFin r

/-- Format X_OPREG: bits 7..3 select the instruction, bits 2..0 are the register code (R84, R86). -/
def encodeOpReg (op : BitVec 5) (r : X86Reg) : Byte :=
  op ++ x86Code r

/-- A register-direct ModRM byte: mod = 0b11, reg = s, rm = d (R84, R85). -/
def encodeModRm (d s : X86Reg) : Byte :=
  0b11#2 ++ x86Code s ++ x86Code d

/-- Format A_DPR with imm5 = 0, type = 0 (R94). -/
def encodeDpr (opc : BitVec 4) (setFlags : BitVec 1) (rn rd rm : BitVec 4) : Word :=
  0b1110#4 ++ 0b000#3 ++ opc ++ setFlags ++ rn ++ rd ++ 0#5 ++ 0#2 ++ 0#1 ++ rm

/-- Format A_DPI with opc = MOV, S = 0, Rn = 0 (R94). -/
def encodeMovImm (rd rot : BitVec 4) (imm8 : Byte) : Word :=
  0b1110#4 ++ 0b001#3 ++ 0b1101#4 ++ 0#1 ++ 0#4 ++ rd ++ rot ++ imm8

/-- Format A_LSI with Rn = r13 and imm12 = 4 (R94); pubwl is P, U, B, W, L. -/
def encodeStack (pubwl : BitVec 5) (rt : BitVec 4) : Word :=
  0b1110#4 ++ 0b010#3 ++ pubwl ++ 13#4 ++ rt ++ 4#12

/-- Format A_BR (R94). -/
def encodeBranch (link : BitVec 1) (imm24 : BitVec 24) : Word :=
  0b1110#4 ++ 0b101#3 ++ link ++ imm24

/-- Format R (R99). -/
def encodeR (funct7 : BitVec 7) (rs2 rs1 : BitVec 5) (funct3 : BitVec 3) (rd : BitVec 5) (op : BitVec 7) : Word :=
  funct7 ++ rs2 ++ rs1 ++ funct3 ++ rd ++ op

/-- Format I (R99). -/
def encodeI (imm : BitVec 12) (rs1 : BitVec 5) (funct3 : BitVec 3) (rd : BitVec 5) (op : BitVec 7) : Word :=
  imm ++ rs1 ++ funct3 ++ rd ++ op

/-- Format S (R99). -/
def encodeS (imm : BitVec 12) (rs2 rs1 : BitVec 5) (funct3 : BitVec 3) (op : BitVec 7) : Word :=
  imm.extractLsb' 5 7 ++ rs2 ++ rs1 ++ funct3 ++ imm.extractLsb' 0 5 ++ op

/-- Format J (R99); half is imm[20:1]. -/
def encodeJ (half : BitVec 20) (rd : BitVec 5) (op : BitVec 7) : Word :=
  half.extractLsb' 19 1 ++ half.extractLsb' 0 10 ++ half.extractLsb' 10 1 ++ half.extractLsb' 11 8 ++ rd ++ op

/-- The 32-bit word of an ARM or RISC-V instruction; 0 on x86, whose instructions are not words. -/
def encodeWord : Instr → Word
  | .x86MovRI _ _ | .x86MovRR _ _ | .x86AddRR _ _ | .x86SubRR _ _ | .x86Push _ | .x86Pop _ | .x86Ret | .x86Int _
  | .x86Jmp _ | .x86Call _ | .x86Nop => 0
  | .armMovRR rd rm => encodeDpr 0b1101 0 0 (armCode rd) (armCode rm)
  | .armMovRI rd rot imm8 => encodeMovImm (armCode rd) rot imm8
  | .armAddRR rd rn rm => encodeDpr 0b0100 0 (armCode rn) (armCode rd) (armCode rm)
  | .armAddsRR rd rn rm => encodeDpr 0b0100 1 (armCode rn) (armCode rd) (armCode rm)
  | .armSubRR rd rn rm => encodeDpr 0b0010 0 (armCode rn) (armCode rd) (armCode rm)
  | .armSubsRR rd rn rm => encodeDpr 0b0010 1 (armCode rn) (armCode rd) (armCode rm)
  | .armPush rt => encodeStack 0b10010 (armCode rt)
  | .armPop rt => encodeStack 0b01001 (armCode rt)
  | .armB imm24 => encodeBranch 0 imm24
  | .armBL imm24 => encodeBranch 1 imm24
  | .armBxLr => 0b1110#4 ++ 0b000100101111111111110001#24 ++ armCode armLr
  | .armSvc imm24 => 0b1110#4 ++ 0b1111#4 ++ imm24
  | .rvLui rd imm20 => imm20 ++ rvCode rd ++ 0b0110111#7
  | .rvAddi rd rs1 imm12 => encodeI imm12 (rvCode rs1) 0b000 (rvCode rd) 0b0010011
  | .rvAdd rd rs1 rs2 => encodeR 0b0000000 (rvCode rs2) (rvCode rs1) 0b000 (rvCode rd) 0b0110011
  | .rvSub rd rs1 rs2 => encodeR 0b0100000 (rvCode rs2) (rvCode rs1) 0b000 (rvCode rd) 0b0110011
  | .rvLw rd rs1 imm12 => encodeI imm12 (rvCode rs1) 0b010 (rvCode rd) 0b0000011
  | .rvSw rs2 rs1 imm12 => encodeS imm12 (rvCode rs2) (rvCode rs1) 0b010 0b0100011
  | .rvJal rd half => encodeJ half (rvCode rd) 0b1101111
  | .rvJalr rd rs1 imm12 => encodeI imm12 (rvCode rs1) 0b000 (rvCode rd) 0b1100111
  | .rvEcall => encodeI 0 0 0b000 0 0b1110011

/-- The bytes of an instruction in code-buffer order (R84, R90, R69). -/
def encode (i : Instr) : List Byte :=
  match i with
  | .x86MovRI r imm32 => encodeOpReg 0b10111 r :: leBytes imm32
  | .x86MovRR d s => [0x89, encodeModRm d s]
  | .x86AddRR d s => [0x01, encodeModRm d s]
  | .x86SubRR d s => [0x29, encodeModRm d s]
  | .x86Push r => [encodeOpReg 0b01010 r]
  | .x86Pop r => [encodeOpReg 0b01011 r]
  | .x86Ret => [0xC3]
  | .x86Int imm8 => [0xCD, imm8]
  | .x86Jmp disp32 => 0xE9 :: leBytes disp32
  | .x86Call disp32 => 0xE8 :: leBytes disp32
  | .x86Nop => [0x90]
  | .armMovRR _ _ | .armMovRI _ _ _ | .armAddRR _ _ _ | .armAddsRR _ _ _ | .armSubRR _ _ _ | .armSubsRR _ _ _
  | .armPush _ | .armPop _ | .armB _ | .armBL _ | .armBxLr | .armSvc _ => leBytes (encodeWord i)
  | .rvLui _ _ | .rvAddi _ _ _ | .rvAdd _ _ _ | .rvSub _ _ _ | .rvLw _ _ _ | .rvSw _ _ _ | .rvJal _ _
  | .rvJalr _ _ _ | .rvEcall => leBytes (encodeWord i)

/-! ## A row of the machine-readable opcode table

DESIGN CHOICE (log entry 8), safe: spec/opcode_table.json names no architecture in a bare number, so a 32-bit row is read as
ARM where the ARM table has it and as RISC-V otherwise, and any other width is read as x86. -/

/-- The architecture a table word of nbits bits is read under; none for a width no row can have. -/
def tableArch (nbits w : Nat) : Option Arch :=
  if nbits = 0 ∨ 40 < nbits then none
  else if nbits = 32 then
    match decodeArm (BitVec.ofNat 32 w) with
    | some _ => some .arm
    | none => some .riscv
  else some .x86

/-- The bytes of a table word as the code buffer stores them, the first at the lowest offset, zero above nbits, up to the
longest instruction of the architecture (R69, R84, R104). -/
def tableBytes (nbits w : Nat) : List Byte :=
  (List.range (if nbits = 32 then 4 else 5)).map fun k => BitVec.ofNat 8 ((w % 2 ^ nbits) >>> (8 * k))

/-- The instruction this decoder reads from a table word, none where it reads the unmatched record. -/
def decodeTableWord (nbits w : Nat) : Option Instr :=
  match tableArch nbits w with
  | none => none
  | some arch => decodeInstr arch (tableBytes nbits w)

end Sys2Proof
end

