-- ==== Sys2Proof/Machine/Fetch.lean ====
section
/-! DEFINITION. What a step does at its pc before and beside an instruction's own meaning: the order of the tests (60_exceptions
R307), the completed test (10_state R45), the decode, the unmatched record (30_encoding R92), and placing an instruction in
the code buffer. -/

namespace Sys2Proof.Machine

/-- completed: u(pc) ≥ CODE_LEN (R45). A function of pc and the code buffer, not stored. -/
def State.completed (s : State) : Bool := s.code.length ≤ s.pc.toNat

/-- What a step finds to do. -/
inductive Selected where
  /-- The backend is Unimplemented (R306). -/
  | unimplemented
  /-- The program has completed: nothing is decoded (R45, R82). -/
  | finished
  /-- No row of the table matches (R92). -/
  | unmatched (opcode : Word)
  /-- An instruction of the active architecture. -/
  | run (i : Instr)
deriving DecidableEq, Repr

/-- The order of R307: NotImplemented, then the completed test, then the decode. -/
def State.select (s : State) : Selected :=
  match s.cfg.variant with
  | .unimplemented => .unimplemented
  | .minimal =>
    if s.completed then .finished
    else
      match decode s.cfg.arch s.code s.pc with
      | .instr i => .run i
      | .unmatched opcode => .unmatched opcode

/-- NOP_UNMATCHED (R92, R192, R225, R260): IllegalInstruction under STRICT_DECODE, else a no-op of UNIT bytes. -/
def execUnmatched (opcode : Word) (s : State) : StepOutcome :=
  if s.cfg.strictDecode then raise (.illegalInstruction s.pc opcode)
  else .next (s.advance (BitVec.ofNat 32 s.cfg.arch.unit))

/-- A call on an Unimplemented backend (R306). -/
def execUnimplemented (s : State) : StepOutcome := raise (.notImplemented s.cfg.arch)

/-- The record of R49: the type is the row's mnemonic, or NOP_UNMATCHED with size UNIT. -/
def recordOf (arch : Arch) (bytes : List Byte) : Record :=
  match decodeBytes arch bytes with
  | .instr i => ⟨opcodeOf arch bytes, operandsOf i, i.size, i.mnemonic⟩
  | .unmatched opcode => ⟨opcode, [], arch.unit, "NOP_UNMATCHED"⟩

/-- The x86 decode procedure as R91 writes it: a chain of tests on byte 0 and byte 1 that returns the record. The machine
decodes by the tables; that the two agree is a statement. -/
def x86ProcedureRecord (b0 b1 : Byte) (imm32 : Word) : Record :=
  let op : Word := b0.zeroExtend 32
  let low : Word := (b0.extractLsb' 0 3).zeroExtend 32
  let rm : Word := (b1.extractLsb' 0 3).zeroExtend 32
  let reg : Word := (b1.extractLsb' 3 3).zeroExtend 32
  let direct : Bool := b1.extractLsb' 6 2 == 0b11#2
  if b0.extractLsb' 3 5 = 0b10111#5 then ⟨op, [low, imm32], 5, "MOV_RI"⟩
  else if b0 = 0x89 ∧ direct then ⟨op, [rm, reg], 2, "MOV_RR"⟩
  else if b0 = 0x01 ∧ direct then ⟨op, [rm, reg], 2, "ADD_RR"⟩
  else if b0 = 0x29 ∧ direct then ⟨op, [rm, reg], 2, "SUB_RR"⟩
  else if b0.extractLsb' 3 5 = 0b01010#5 then ⟨op, [low], 1, "PUSH"⟩
  else if b0.extractLsb' 3 5 = 0b01011#5 then ⟨op, [low], 1, "POP"⟩
  else if b0 = 0xC3 then ⟨op, [], 1, "RET"⟩
  else if b0 = 0xCD then ⟨op, [b1.zeroExtend 32], 2, "INT"⟩
  else if b0 = 0xE9 then ⟨op, [imm32], 5, "JMP"⟩
  else if b0 = 0xE8 then ⟨op, [imm32], 5, "CALL"⟩
  else if b0 = 0x90 then ⟨op, [], 1, "NOP"⟩
  else ⟨op, [], 1, "NOP_UNMATCHED"⟩

/-- The record of the instruction at the pc. -/
def State.record (s : State) : Record := recordOf s.cfg.arch (fetchBytes s.code s.pc)

/-- A byte list with `bytes` laid over it from position n, zero-filled up to n. -/
def overlay (code : List Byte) (n : Nat) (bytes : List Byte) : List Byte :=
  code.take n ++ List.replicate (n - code.length) 0 ++ bytes ++ code.drop (n + bytes.length)

/-- Make an architecture's Minimal backend the active one. -/
def Config.selectArch (c : Config) (arch : Arch) : Config :=
  match arch with
  | .x86 => { c with arch := .x86 }
  | .arm => { c with arch := .arm, backendArm := .minimal }
  | .riscv => { c with arch := .riscv, backendRiscv := .minimal }

/-- Lay an instruction's bytes at the pc in the code buffer and make its architecture the active one: the machine runs one
architecture an instance and its code is an input of the step, so this is what it takes for the next step to run the
instruction (log entries 6 and 8). -/
def State.placeInstr (s : State) (arch : Arch) (bytes : List Byte) : State :=
  { s with cfg := Config.selectArch s.cfg arch, code := overlay s.code s.pc.toNat bytes }

end Sys2Proof.Machine
end

