-- ==== Sys2Proof/Machine/Step.lean ====
section
/-! DEFINITION. One step (spec 60_exceptions R321), and placing an instruction where the next step fetches it. -/

namespace Sys2Proof.Machine

/-- STEP on the code buffer the state holds: fetch, decode and execute one instruction at the pc; past the end of the code
nothing changes (R45, R321). -/
def step (s : State) : Host.Outcome State Fault Refusal :=
  match s.select with
  | .unimplemented => execUnimplemented s
  | .finished => .next s
  | .unmatched opcode => execUnmatched opcode s
  | .run i => exec i s

/-- The state with the instruction of an opcode-table word placed where the next step fetches it; unchanged for a width no
row has (log entry 8). -/
def State.withFetchWord (s : State) (nbits w : Nat) : State :=
  match tableArch nbits w with
  | none => s
  | some arch => s.placeInstr arch (tableBytes nbits w)

end Sys2Proof.Machine
end

