-- ==== Sys2Proof/Machine/Names.lean ====
section
/-! DEFINITION. Register names (spec 10_state R22, R26, R31, R35): the tables by which the host, the snapshot and the assembler
name registers. -/

namespace Sys2Proof.Machine

/-- A general register of one of the architectures. -/
inductive GenReg where
  | x86 (r : X86Reg)
  | arm (r : ArmReg)
  | riscv (r : RvReg)
deriving DecidableEq, Repr

/-- The 32-bit x86 names (R22). -/
def x86Names : List (String × X86Reg) := [
  ("eax", 0), ("ecx", 1), ("edx", 2), ("ebx", 3), ("esp", 4), ("ebp", 5), ("esi", 6), ("edi", 7)]

/-- The 16-bit x86 views (R22, R23). -/
def x86Names16 : List (String × X86Reg) := [
  ("ax", 0), ("cx", 1), ("dx", 2), ("bx", 3), ("sp", 4), ("bp", 5), ("si", 6), ("di", 7)]

/-- The low-8 x86 views (R22, R24). -/
def x86NamesLow8 : List (String × ByteReg) := [
  ("al", 0), ("cl", 1), ("dl", 2), ("bl", 3)]

/-- The high-8 x86 views (R22, R25). -/
def x86NamesHigh8 : List (String × ByteReg) := [
  ("ah", 0), ("ch", 1), ("dh", 2), ("bh", 3)]

/-- r0..r14 (R31). -/
def armNames : List (String × ArmReg) := [
  ("r0", 0), ("r1", 1), ("r2", 2), ("r3", 3), ("r4", 4), ("r5", 5), ("r6", 6), ("r7", 7), ("r8", 8), ("r9", 9),
  ("r10", 10), ("r11", 11), ("r12", 12), ("r13", 13), ("r14", 14)]

/-- The ARM aliases of general registers (R31). -/
def armAliases : List (String × ArmReg) := [("sp", 13), ("lr", 14)]

/-- x0..x31 (R35). -/
def rvNames : List (String × RvReg) := [
  ("x0", 0), ("x1", 1), ("x2", 2), ("x3", 3), ("x4", 4), ("x5", 5), ("x6", 6), ("x7", 7), ("x8", 8), ("x9", 9),
  ("x10", 10), ("x11", 11), ("x12", 12), ("x13", 13), ("x14", 14), ("x15", 15), ("x16", 16), ("x17", 17),
  ("x18", 18), ("x19", 19), ("x20", 20), ("x21", 21), ("x22", 22), ("x23", 23), ("x24", 24), ("x25", 25),
  ("x26", 26), ("x27", 27), ("x28", 28), ("x29", 29), ("x30", 30), ("x31", 31)]

/-- The RISC-V ABI aliases (R35). -/
def rvAliases : List (String × RvReg) := [
  ("zero", 0), ("ra", 1), ("sp", 2), ("gp", 3), ("tp", 4), ("t0", 5), ("t1", 6), ("t2", 7), ("s0", 8), ("fp", 8),
  ("s1", 9), ("a0", 10), ("a1", 11), ("a2", 12), ("a3", 13), ("a4", 14), ("a5", 15), ("a6", 16), ("a7", 17),
  ("s2", 18), ("s3", 19), ("s4", 20), ("s5", 21), ("s6", 22), ("s7", 23), ("s8", 24), ("s9", 25), ("s10", 26),
  ("s11", 27), ("t3", 28), ("t4", 29), ("t5", 30), ("t6", 31)]

/-- The general register of an architecture a name stands for at full width; none for a view, the pc or no register. -/
def genRegOf (arch : Arch) (name : String) : Option GenReg :=
  match arch with
  | .x86 => (x86Names.lookup name).map .x86
  | .arm => ((armNames ++ armAliases).lookup name).map .arm
  | .riscv => ((rvNames ++ rvAliases).lookup name).map .riscv

/-- A name of the architecture that is no operand and no target of a host write: an x86 view (R27, R121) or ARM's pc
(R32, R120). -/
def isReservedName (arch : Arch) (name : String) : Bool :=
  match arch with
  | .x86 => (x86Names16.map (·.1) ++ x86NamesLow8.map (·.1) ++ x86NamesHigh8.map (·.1)).contains name
  | .arm => name == "pc" || name == "r15"
  | .riscv => false

/-- The value of a general register, by its architecture's read rule (R22, R31, R36). -/
def State.genGet (s : State) : GenReg → Word
  | .x86 r => s.x86Get r
  | .arm r => s.armGet r
  | .riscv r => s.rvGet r

/-- The write of a general register, by its architecture's write rule (R22, R33, R38). -/
def State.genSet (s : State) (r : GenReg) (v : Word) : State :=
  match r with
  | .x86 r => s.x86Set r v
  | .arm r => s.armSet r v
  | .riscv r => s.rvSet r v

end Sys2Proof.Machine
end

