-- ==== Sys2Proof/Machine/Assembler.lean ====
section
/-! DEFINITION. The assembler (spec 30_encoding section 6, R110 to R124): line syntax, operand classification, forms, the two
passes, and validate. It works on lists of characters; names leave it as strings. -/

namespace Sys2Proof.Machine

/-- The errors of the assembler (R113, R115 to R118). They are no faults of the block (R300). -/
inductive AsmError where
  | malformedLabel
  | duplicateLabel (name : String)
  | unknownInstruction (mnemonic : String)
  | unsupportedOperandShape
  | immediateOutOfRange
  | undefinedLabel (name : String)
  | displacementOutOfRange
deriving DecidableEq, Repr

/-- An error with its source line (R118, R123). That the first line is 1 is a DESIGN CHOICE, unsafe (log entry 29). -/
structure Diagnostic where
  line : Nat
  error : AsmError
deriving DecidableEq, Repr

/-- The message a diagnostic carries: any text (R118, R326, 93 I23; log entry 18). -/
def Diagnostic.message (d : Diagnostic) : String := Config.errorText (reprStr d.error)

/-! ## Lines (R113) -/

/-- White space inside a line (log entry 17). -/
def isBlankChar (c : Char) : Bool := c == ' ' || c == '\t' || c == '\r'

/-- Without white space at either end. -/
def trimBlanks (l : List Char) : List Char :=
  ((l.dropWhile isBlankChar).reverse.dropWhile isBlankChar).reverse

/-- Split at every occurrence of a separator. -/
def splitAtChar (sep : Char) : List Char → List (List Char)
  | [] => [[]]
  | c :: cs =>
    match splitAtChar sep cs with
    | [] => [[c]]
    | h :: t => if c == sep then [] :: h :: t else (c :: h) :: t

/-- A letter, `_` or `.`. -/
def isNameStart (c : Char) : Bool := c.isAlpha || c == '_' || c == '.'

/-- A label name: a letter, `_` or `.`, then letters, digits, `_` or `.` (R113). -/
def isName : List Char → Bool
  | [] => false
  | c :: cs => isNameStart c && cs.all fun d => isNameStart d || d.isDigit

/-- A source line as the passes read it. -/
inductive Line where
  | blank
  | label (name : String)
  | badLabel
  | instr (mnemonic : String) (operands : List (List Char))
deriving DecidableEq, Repr

/-- Case-insensitive mnemonics and register names (R113). -/
def lowerName (l : List Char) : String := String.ofList (l.map Char.toLower)

/-- Read one line: comment from `;`, label terminator `:`, else mnemonic and comma-separated operands (R113). The mnemonic ends
at the first blank, and blanks round an operand are dropped (DESIGN CHOICE, unsafe, log entry 26). -/
def parseLine (text : List Char) : Line :=
  let body := trimBlanks (text.takeWhile (· != ';'))
  if body.isEmpty then .blank
  else if body.contains ':' then
    let name := body.takeWhile (· != ':')
    let after := (body.dropWhile (· != ':')).drop 1
    if isName name && after.all isBlankChar then .label (String.ofList name) else .badLabel
  else
    let rest := trimBlanks (body.dropWhile (!isBlankChar ·))
    .instr (String.ofList (body.takeWhile (!isBlankChar ·)))
      (if rest.isEmpty then [] else (splitAtChar ',' rest).map trimBlanks)

/-! ## Numbers and operands (R114, R115) -/

/-- The value of a hexadecimal digit. -/
def hexDigit (c : Char) : Option Nat :=
  if c.isDigit then some (c.toNat - '0'.toNat)
  else if 'a' ≤ c ∧ c ≤ 'f' then some (c.toNat - 'a'.toNat + 10)
  else if 'A' ≤ c ∧ c ≤ 'F' then some (c.toNat - 'A'.toNat + 10)
  else none

/-- The value of a non-empty digit string in a base, none where a character is no digit of it. -/
def digitsValue (base : Nat) : List Char → Nat → Option Nat
  | [], acc => some acc
  | c :: cs, acc =>
    match hexDigit c with
    | some d => if d < base then digitsValue base cs (acc * base + d) else none
    | none => none

/-- Unsigned decimal or `0x`-prefixed hexadecimal (R115). -/
def parseNumber : List Char → Option Nat
  | [] => none
  | '0' :: 'x' :: h :: hs => digitsValue 16 (h :: hs) 0
  | ds => digitsValue 10 ds 0

/-- A number that may carry a leading `-`, as the signed RISC-V fields accept (R115). -/
def parseSigned : List Char → Option Int
  | '-' :: ds => (parseNumber ds).map fun n => -(n : Int)
  | ds => (parseNumber ds).map fun n => (n : Int)

/-- The braces of ARM's single-register list. -/
def openBrace : Char := Char.ofNat 123
def closeBrace : Char := Char.ofNat 125

/-- A classified operand (R114): a register, an immediate, a label, or the written forms ARM and RISC-V add. -/
inductive Operand where
  | reg (r : GenReg)
  /-- An unsigned number. -/
  | imm (n : Nat)
  /-- RISC-V: a number with a leading `-`. -/
  | negImm (n : Int)
  /-- ARM: `#n`. -/
  | hashImm (n : Nat)
  /-- ARM: one register in braces. -/
  | braced (r : GenReg)
  /-- RISC-V: `n(reg)`. -/
  | based (offset : Int) (r : GenReg)
  | label (name : String)
  /-- Anything else, x86 views and ARM's pc among them (R120, R121). -/
  | other
deriving DecidableEq, Repr

/-- `n(reg)`, RISC-V's base and offset (R122). Blanks before and inside the parentheses are dropped (DESIGN CHOICE, unsafe, log
entry 27). -/
def parseBased (tok : List Char) : Option (Int × GenReg) :=
  let offset := trimBlanks (tok.takeWhile (· != '('))
  let rest := (tok.dropWhile (· != '(')).drop 1
  match rest.reverse with
  | ')' :: inner =>
    match parseSigned offset, genRegOf .riscv (lowerName (trimBlanks inner.reverse)) with
    | some n, some r => some (n, r)
    | _, _ => none
  | _ => none

/-- The forms only one architecture writes (R115, R120, R122). Blanks just inside the braces are dropped, none is taken after `#`
or `-` (DESIGN CHOICE, unsafe, log entry 27). -/
def classifySpecial (arch : Arch) (tok : List Char) : Option Operand :=
  match arch with
  | .x86 => none
  | .arm =>
    match tok with
    | [] => none
    | c :: cs =>
      if c == '#' then (parseNumber cs).map .hashImm
      else if c == openBrace && cs.getLast? == some closeBrace then
        (genRegOf .arm (lowerName (trimBlanks cs.dropLast))).map .braced
      else none
  | .riscv =>
    match parseBased tok with
    | some (n, r) => some (.based n r)
    | none => if tok.head? == some '-' then (parseSigned tok).map .negImm else none

/-- Classify an operand token: register, then immediate, then the architecture's own forms, then label (R114). -/
def classify (arch : Arch) (tok : List Char) : Operand :=
  match genRegOf arch (lowerName tok) with
  | some r => .reg r
  | none =>
    if isReservedName arch (lowerName tok) then .other
    else
      match parseNumber tok with
      | some n => .imm n
      | none =>
        match classifySpecial arch tok with
        | some o => o
        | none => if isName tok then .label (String.ofList tok) else .other

/-! ## Forms: an instruction line with its label and its range checks still open -/

/-- A supported (mnemonic, operand shape) pair (R118 to R122). -/
inductive Form where
  /-- Nothing left to resolve. -/
  | ready (i : Instr)
  | x86MovImm (r : X86Reg) (n : Nat)
  | x86IntImm (n : Nat)
  | x86JmpTo (name : String)
  | x86CallTo (name : String)
  | armMovImm (rd : ArmReg) (n : Nat)
  | armBTo (name : String)
  | armBLTo (name : String)
  | armSvcImm (n : Nat)
  | rvLuiImm (rd : RvReg) (n : Nat)
  | rvAddiImm (rd rs1 : RvReg) (n : Int)
  | rvLwImm (rd rs1 : RvReg) (n : Int)
  | rvSwImm (rs2 rs1 : RvReg) (n : Int)
  | rvJalTo (rd : RvReg) (name : String)
  | rvJalrImm (rd rs1 : RvReg) (n : Int)
deriving DecidableEq, Repr

/-- The encoded size, known without the labels (R111). -/
def Form.size : Form → Nat
  | .ready i => i.size
  | .x86MovImm _ _ | .x86JmpTo _ | .x86CallTo _ => 5
  | .x86IntImm _ => 2
  | .armMovImm _ _ | .armBTo _ | .armBLTo _ | .armSvcImm _ => 4
  | .rvLuiImm _ _ | .rvAddiImm _ _ _ | .rvLwImm _ _ _ | .rvSwImm _ _ _ | .rvJalTo _ _ | .rvJalrImm _ _ _ => 4

/-- The mnemonics of an architecture's assembler (R119, R120, R122). -/
def mnemonicsOf : Arch → List String
  | .x86 => ["mov", "add", "sub", "push", "pop", "ret", "int", "jmp", "call", "nop"]
  | .arm => ["mov", "add", "adds", "sub", "subs", "push", "pop", "b", "bl", "bx", "svc"]
  | .riscv =>
    ["lui", "addi", "add", "sub", "lw", "sw", "jal", "jalr", "ecall", "li", "mv", "nop", "j", "call", "ret"]

/-- The x86 forms (R119). -/
def x86Form (mnemonic : String) (ops : List Operand) : Option Form :=
  match mnemonic, ops with
  | "mov", [.reg (.x86 d), .imm n] => some (.x86MovImm d n)
  | "mov", [.reg (.x86 d), .reg (.x86 s)] => some (.ready (.x86MovRR d s))
  | "add", [.reg (.x86 d), .reg (.x86 s)] => some (.ready (.x86AddRR d s))
  | "sub", [.reg (.x86 d), .reg (.x86 s)] => some (.ready (.x86SubRR d s))
  | "push", [.reg (.x86 r)] => some (.ready (.x86Push r))
  | "pop", [.reg (.x86 r)] => some (.ready (.x86Pop r))
  | "ret", [] => some (.ready .x86Ret)
  | "int", [.imm n] => some (.x86IntImm n)
  | "jmp", [.label l] => some (.x86JmpTo l)
  | "call", [.label l] => some (.x86CallTo l)
  | "nop", [] => some (.ready .x86Nop)
  | _, _ => none

/-- The ARM forms (R120). -/
def armForm (mnemonic : String) (ops : List Operand) : Option Form :=
  match mnemonic, ops with
  | "mov", [.reg (.arm rd), .reg (.arm rm)] => some (.ready (.armMovRR rd rm))
  | "mov", [.reg (.arm rd), .hashImm n] => some (.armMovImm rd n)
  | "add", [.reg (.arm rd), .reg (.arm rn), .reg (.arm rm)] => some (.ready (.armAddRR rd rn rm))
  | "adds", [.reg (.arm rd), .reg (.arm rn), .reg (.arm rm)] => some (.ready (.armAddsRR rd rn rm))
  | "sub", [.reg (.arm rd), .reg (.arm rn), .reg (.arm rm)] => some (.ready (.armSubRR rd rn rm))
  | "subs", [.reg (.arm rd), .reg (.arm rn), .reg (.arm rm)] => some (.ready (.armSubsRR rd rn rm))
  | "push", [.braced (.arm rt)] => if rt = armSp then none else some (.ready (.armPush rt))
  | "pop", [.braced (.arm rt)] => if rt = armSp then none else some (.ready (.armPop rt))
  | "b", [.label l] => some (.armBTo l)
  | "bl", [.label l] => some (.armBLTo l)
  | "bx", [.reg (.arm r)] => if r = armLr then some (.ready .armBxLr) else none
  | "svc", [.hashImm n] => some (.armSvcImm n)
  | _, _ => none

/-- A signed immediate: an unsigned number or one with a leading `-` (R115). -/
def Operand.signed : Operand → Option Int
  | .imm n => some n
  | .negImm n => some n
  | .reg _ | .hashImm _ | .braced _ | .based _ _ | .label _ | .other => none

/-- The RISC-V forms and pseudo-instructions (R122). -/
def rvForm (mnemonic : String) (ops : List Operand) : Option Form :=
  match mnemonic, ops with
  | "lui", [.reg (.riscv rd), .imm n] => some (.rvLuiImm rd n)
  | "addi", [.reg (.riscv rd), .reg (.riscv rs1), o] => o.signed.map (.rvAddiImm rd rs1)
  | "add", [.reg (.riscv rd), .reg (.riscv rs1), .reg (.riscv rs2)] => some (.ready (.rvAdd rd rs1 rs2))
  | "sub", [.reg (.riscv rd), .reg (.riscv rs1), .reg (.riscv rs2)] => some (.ready (.rvSub rd rs1 rs2))
  | "lw", [.reg (.riscv rd), .based n (.riscv rs1)] => some (.rvLwImm rd rs1 n)
  | "sw", [.reg (.riscv rs2), .based n (.riscv rs1)] => some (.rvSwImm rs2 rs1 n)
  | "jal", [.reg (.riscv rd), .label l] => some (.rvJalTo rd l)
  | "jalr", [.reg (.riscv rd), .based n (.riscv rs1)] => some (.rvJalrImm rd rs1 n)
  | "ecall", [] => some (.ready .rvEcall)
  | "li", [.reg (.riscv rd), o] => o.signed.map (.rvAddiImm rd 0)
  | "mv", [.reg (.riscv rd), .reg (.riscv rs)] => some (.rvAddiImm rd rs 0)
  | "nop", [] => some (.rvAddiImm 0 0 0)
  | "j", [.label l] => some (.rvJalTo 0 l)
  | "jal", [.label l] => some (.rvJalTo 1 l)
  | "call", [.label l] => some (.rvJalTo 1 l)
  | "ret", [] => some (.rvJalrImm 0 1 0)
  | _, _ => none

/-- Select the form by mnemonic and operand shape, or say which error the line is (R118). -/
def formOf (arch : Arch) (mnemonic : String) (ops : List (List Char)) : Except AsmError Form :=
  let low := lowerName mnemonic.toList
  if (mnemonicsOf arch).contains low then
    let classified := ops.map (classify arch)
    let form :=
      match arch with
      | .x86 => x86Form low classified
      | .arm => armForm low classified
      | .riscv => rvForm low classified
    match form with
    | some f => .ok f
    | none => .error .unsupportedOperandShape
  else .error (.unknownInstruction mnemonic)

/-! ## Resolution: labels, displacements and ranges (R115 to R117) -/

/-- The pass-1 label table, in order of definition. -/
abbrev Labels := List (String × Nat)

/-- The address of a label (R116). -/
def findLabel (labels : Labels) (name : String) : Except AsmError Nat :=
  match labels.lookup name with
  | some a => .ok a
  | none => .error (.undefinedLabel name)

/-- The encoding of an ARM immediate with the smallest rot, none where no rot represents it (R120, D43). -/
def armImmEncoding (n : Nat) : Option (BitVec 4 × Byte) :=
  if n < 2 ^ 32 then
    ((List.range 16).find? fun rot => ((BitVec.ofNat 32 n).rotateLeft (2 * rot)).toNat < 256).map fun rot =>
      (BitVec.ofNat 4 rot, ((BitVec.ofNat 32 n).rotateLeft (2 * rot)).truncate 8)
  else none

/-- A RISC-V imm12 (R115). -/
def signedField12 (n : Int) : Except AsmError (BitVec 12) :=
  if -2048 ≤ n ∧ n ≤ 2047 then .ok (BitVec.ofInt 12 n) else .error .immediateOutOfRange

/-- An x86 displacement: from the instruction's end, modulo 2^32 (R117). -/
def x86Displacement (target addr : Nat) : Word := BitVec.ofInt 32 ((target : Int) - ((addr : Int) + 5))

/-- An ARM imm24: from addr + 8, a multiple of 4 in -2^25 .. 2^25 - 4 (R117). -/
def armDisplacement (target addr : Nat) : Except AsmError (BitVec 24) :=
  let d : Int := (target : Int) - ((addr : Int) + 8)
  if d % 4 = 0 ∧ -2 ^ 25 ≤ d ∧ d ≤ 2 ^ 25 - 4 then .ok (BitVec.ofInt 24 (d / 4)) else .error .displacementOutOfRange

/-- Bits 20..1 of a RISC-V immJ: from addr, even, in -2^20 .. 2^20 - 2 (R117). -/
def rvDisplacement (target addr : Nat) : Except AsmError (BitVec 20) :=
  let d : Int := (target : Int) - (addr : Int)
  if d % 2 = 0 ∧ -2 ^ 20 ≤ d ∧ d ≤ 2 ^ 20 - 2 then .ok (BitVec.ofInt 20 (d / 2)) else .error .displacementOutOfRange

/-- The instruction a form at an address stands for (R112, R115 to R117). -/
def Form.resolve (f : Form) (addr : Nat) (labels : Labels) : Except AsmError Instr :=
  match f with
  | .ready i => .ok i
  | .x86MovImm r n => if n < 2 ^ 32 then .ok (.x86MovRI r (BitVec.ofNat 32 n)) else .error .immediateOutOfRange
  | .x86IntImm n => if n ≤ 255 then .ok (.x86Int (BitVec.ofNat 8 n)) else .error .immediateOutOfRange
  | .x86JmpTo l => (findLabel labels l).map fun t => .x86Jmp (x86Displacement t addr)
  | .x86CallTo l => (findLabel labels l).map fun t => .x86Call (x86Displacement t addr)
  | .armMovImm rd n =>
    match armImmEncoding n with
    | some (rot, imm8) => .ok (.armMovRI rd rot imm8)
    | none => .error .immediateOutOfRange
  | .armBTo l => (findLabel labels l).bind fun t => (armDisplacement t addr).map .armB
  | .armBLTo l => (findLabel labels l).bind fun t => (armDisplacement t addr).map .armBL
  | .armSvcImm n => if n < 2 ^ 24 then .ok (.armSvc (BitVec.ofNat 24 n)) else .error .immediateOutOfRange
  | .rvLuiImm rd n => if n ≤ 0xFFFFF then .ok (.rvLui rd (BitVec.ofNat 20 n)) else .error .immediateOutOfRange
  | .rvAddiImm rd rs1 n => (signedField12 n).map (.rvAddi rd rs1)
  | .rvLwImm rd rs1 n => (signedField12 n).map (.rvLw rd rs1)
  | .rvSwImm rs2 rs1 n => (signedField12 n).map (.rvSw rs2 rs1)
  | .rvJalTo rd l => (findLabel labels l).bind fun t => (rvDisplacement t addr).map (.rvJal rd)
  | .rvJalrImm rd rs1 n => (signedField12 n).map (.rvJalr rd rs1)

/-! ## The passes (R111, R112, R123) -/

/-- What a line contributes: an instruction's form, or nothing; the per-line path both passes and validate share (R123). -/
def lineForm (arch : Arch) : Line → Except AsmError (Option Form)
  | .blank => .ok none
  | .label _ => .ok none
  | .badLabel => .error .malformedLabel
  | .instr mnemonic ops => (formOf arch mnemonic ops).map some

/-- The label table after a label line (R111, R113). -/
def defineLabel (labels : Labels) (addr : Nat) : Line → Except AsmError Labels
  | .label name => if (labels.lookup name).isSome then .error (.duplicateLabel name) else .ok (labels ++ [(name, addr)])
  | .blank | .badLabel | .instr _ _ => .ok labels

/-- The lines of a source text, numbered. Every line counts and the first is 1: the spec does not say where the count starts
(DESIGN CHOICE, unsafe, log entry 29). -/
def sourceLines (text : List Char) : List (Nat × Line) :=
  ((splitAtChar '\n' text).zipIdx 1).map fun p => (p.2, parseLine p.1)

/-- The bytes a line's form takes. -/
def formSize : Option Form → Nat
  | some f => f.size
  | none => 0

/-- Pass 1: the label table (R111). -/
def passOne (arch : Arch) : List (Nat × Line) → Nat → Labels → Except Diagnostic Labels
  | [], _, labels => .ok labels
  | (n, line) :: rest, addr, labels =>
    match defineLabel labels addr line, lineForm arch line with
    | .ok labels', .ok form => passOne arch rest (addr + formSize form) labels'
    | .error e, _ => .error ⟨n, e⟩
    | .ok _, .error e => .error ⟨n, e⟩

/-- The bytes of a line's form. -/
def emitForm (labels : Labels) (addr : Nat) : Option Form → Except AsmError (List Byte)
  | none => .ok []
  | some f => (f.resolve addr labels).map encode

/-- Pass 2: the bytes of every instruction line, in line order (R112). -/
def passTwo (arch : Arch) (labels : Labels) : List (Nat × Line) → Nat → Except Diagnostic (List Byte)
  | [], _ => .ok []
  | (n, line) :: rest, addr =>
    match (lineForm arch line).bind fun form => (emitForm labels addr form).map fun bytes => (form, bytes) with
    | .error e => .error ⟨n, e⟩
    | .ok (form, bytes) => (passTwo arch labels rest (addr + formSize form)).map (bytes ++ ·)

/-- assemble: pass 1, then pass 2, failing on the first error (R110). -/
def assembleLines (arch : Arch) (lines : List (Nat × Line)) : Except Diagnostic (List Byte) :=
  (passOne arch lines 0 []).bind fun labels => passTwo arch labels lines 0

/-- validate's label table: a failing line takes no bytes, a second definition is left out (log entry 16). -/
def collectLabels (arch : Arch) : List (Nat × Line) → Nat → Labels → Labels
  | [], _, labels => labels
  | (_, line) :: rest, addr, labels =>
    let labels' := (defineLabel labels addr line).toOption.getD labels
    let form := (lineForm arch line).toOption.getD none
    collectLabels arch rest (addr + formSize form) labels'

/-- One diagnostic for each failing line, in line order (R110, R123). `seen` holds the labels of earlier lines. -/
def diagnose (arch : Arch) (all : Labels) : List (Nat × Line) → Nat → Labels → List Diagnostic
  | [], _, _ => []
  | (n, line) :: rest, addr, seen =>
    let defined := defineLabel seen addr line
    let form := lineForm arch line
    let emitted := form.bind (emitForm all addr)
    let found :=
      match defined, emitted with
      | .error e, _ => [⟨n, e⟩]
      | .ok _, .error e => [⟨n, e⟩]
      | .ok _, .ok _ => []
    found ++ diagnose arch all rest (addr + formSize (form.toOption.getD none)) (defined.toOption.getD seen)

/-- The diagnostics of validate: the text is valid exactly when there are none (R110). -/
def validateLines (arch : Arch) (lines : List (Nat × Line)) : List Diagnostic :=
  diagnose arch (collectLabels arch lines 0 []) lines 0 []

end Sys2Proof.Machine
end

