-- ==== Sys2Proof/Machine/HostInterface.lean ====
section
/-! DEFINITION. The host operations on one instance (spec 60_exceptions section 4): RESET, STEP, the two host writes, SNAPSHOT,
assemble and validate. Each is one atomic operation; a call that fails leaves the state as it was (R301, R320). -/

namespace Sys2Proof.Machine

/-! ## Snapshot (R48, R324) -/

/-- The snapshot record of R48. -/
structure Snapshot where
  registers : List (String × Nat)
  flags : List (String × Bool)
  memory : List Byte
  pc : Nat
  completed : Bool
deriving DecidableEq, Repr

/-- Every register name of the active architecture with its value (R48); ARM's optional aliases are left out
(log entry 20). -/
def State.namedRegisters (s : State) : List (String × Nat) :=
  match s.cfg.arch with
  | .x86 =>
    x86Names.map (fun p => (p.1, (s.x86Get p.2).toNat)) ++ x86Names16.map (fun p => (p.1, (s.view16 p.2).toNat)) ++
      x86NamesLow8.map (fun p => (p.1, (s.viewLow8 p.2).toNat)) ++
      x86NamesHigh8.map (fun p => (p.1, (s.viewHigh8 p.2).toNat))
  | .arm => armNames.map (fun p => (p.1, (s.armGet p.2).toNat)) ++ [("pc", s.pc.toNat)]
  | .riscv => rvNames.map fun p => (p.1, (s.rvGet p.2).toNat)

/-- The flag set of the active architecture (R30, R34, R37). -/
def State.namedFlags (s : State) : List (String × Bool) :=
  match s.cfg.arch with
  | .x86 =>
    [("CF", s.x86Flags.CF), ("PF", s.x86Flags.PF), ("ZF", s.x86Flags.ZF), ("SF", s.x86Flags.SF), ("OF", s.x86Flags.OF)]
  | .arm => [("N", s.armFlags.N), ("Z", s.armFlags.Z), ("C", s.armFlags.C), ("V", s.armFlags.V)]
  | .riscv => []

/-- Bytes 0..SNAPSHOT_BYTES-1 of data memory, as far as there is memory (R48). -/
def State.leadingMemory (s : State) : List Byte :=
  (List.range (min s.cfg.snapshotBytes s.cfg.memSize)).map s.mem.read

/-- SNAPSHOT() (R324). It is given no code buffer: completed is measured against the buffer the state holds, that of the last
call that left a new state and empty after construction (DESIGN CHOICE, unsafe, log entry 25). -/
def State.snapshot (s : State) : Snapshot where
  registers := s.namedRegisters
  flags := s.namedFlags
  memory := s.leadingMemory
  pc := s.pc.toNat
  completed := s.completed

/-! ## Errors of a call -/

/-- What a host call can fail with. -/
inductive CallError where
  /-- A fault of the block (R300). -/
  | fault (f : Fault)
  /-- The host named a register that HOST_WRITE_REG does not accept (R322). -/
  | unsupportedOperandShape
  /-- An assembler error with its line (R110, R118). -/
  | assembly (d : Diagnostic)
  /-- An instruction without a meaning; no step answers it. -/
  | refused (r : Refusal)
deriving DecidableEq, Repr

/-- The numeric code of a fault (R300). -/
def Fault.code : Fault → Nat
  | .memoryOutOfBounds _ _ _ => 1
  | .illegalInstruction _ _ => 2
  | .misalignedPC _ _ => 3
  | .notImplemented _ => 4
  | .unsupportedArchitecture _ => 5

/-- The status output "fault of the last step": 0 for none (R50, R300). -/
def faultStatus : StepOutcome → Nat
  | .next _ => 0
  | .fault f => f.code
  | .refused _ => 0

/-- The message an error carries: any text (R326, 93 I23; log entry 18). -/
def CallError.message (e : CallError) : String := Config.errorText (reprStr e)

/-- On an Unimplemented backend every call fails before it reads any input (R306). -/
def State.guarded {α : Type} (s : State) (k : Except CallError α) : Except CallError α :=
  match s.cfg.variant with
  | .unimplemented => .error (.fault (.notImplemented s.cfg.arch))
  | .minimal => k

/-! ## The operations (R320) -/

/-- RESET (R340): the whole state at its reset value; the code buffer is an input and stays (log entry 22). -/
def State.hostReset (s : State) : Except CallError State :=
  s.guarded (.ok { State.construct s.cfg with code := s.code })

/-- STEP's result (R321). -/
structure StepResult where
  instruction : Option Record
  before : Snapshot
  after : Snapshot
  completed : Bool
deriving DecidableEq, Repr

/-- The result of a successful step from s to t (R321): no instruction where the program had completed. -/
def stepResult (s t : State) : StepResult where
  instruction := if s.completed then none else some s.record
  before := s.snapshot
  after := t.snapshot
  completed := t.completed

/-- STEP(CODE) (R321). -/
def State.hostStep (s : State) (code : List Byte) : Except CallError (StepResult × State) :=
  let s' : State := { s with code := code }
  match step s' with
  | .next t => .ok (stepResult s' t, t)
  | .fault f => .error (.fault f)
  | .refused r => .error (.refused r)

/-- HOST_WRITE_REG(name, v) (R322): full-width general registers only. A name that is no register of the active architecture at
all gets the error R322 gives the views and pc (DESIGN CHOICE, unsafe, log entry 28). -/
def State.hostWriteReg (s : State) (name : String) (v : Word) : Except CallError State :=
  s.guarded
    (match genRegOf s.cfg.arch name with
    | some r => .ok (s.genSet r v)
    | none => .error .unsupportedOperandShape)

/-- HOST_WRITE_MEM(addr, bytes) (R323): all of the bytes or none. -/
def State.hostWriteMem (s : State) (addr : Word) (bytes : List Byte) : Except CallError State :=
  s.guarded
    (if s.inBounds addr bytes.length then .ok (s.setMem (s.mem.writeBytes addr.toNat bytes))
    else .error (.fault (s.outOfBounds addr bytes.length)))

/-- SNAPSHOT as a call (R324). Outside a step its completed is that of the buffer the state holds (DESIGN CHOICE, unsafe, log
entry 25). -/
def State.hostSnapshot (s : State) : Except CallError Snapshot := s.guarded (.ok s.snapshot)

/-- assemble(sourceText) (R110). -/
def State.hostAssemble (s : State) (text : String) : Except CallError (List Byte) :=
  s.guarded
    (match assembleLines s.cfg.arch (sourceLines text.toList) with
    | .ok bytes => .ok bytes
    | .error d => .error (.assembly d))

/-- The result of validate (R110): valid exactly when there are no diagnostics. -/
structure Validation where
  valid : Bool
  diagnostics : List Diagnostic
deriving DecidableEq, Repr

/-- validate(sourceText) (R110, R123). -/
def State.hostValidate (s : State) (text : String) : Except CallError Validation :=
  s.guarded
    (let ds := validateLines s.cfg.arch (sourceLines text.toList)
    .ok ⟨ds.isEmpty, ds⟩)

end Sys2Proof.Machine
end

