-- ==== Sys2Proof/Machine/Sequences.lean ====
section
/-! DEFINITION. The host sequences CONTINUE, RUN and DEBUG (spec 70_reset_and_hazards section 2) and the registry
(60_exceptions R305, R325). -/

namespace Sys2Proof.Machine

/-- How a sequence ended (R342, R350, R351). -/
inductive RunEnd where
  /-- completed = true. -/
  | completed
  /-- completed = false: the step ceiling was reached. -/
  | ceiling
  /-- A step failed. -/
  | stopped (e : CallError)
deriving DecidableEq, Repr

/-- What a run returns, with the state it leaves: the snapshot of R351 is that of `final`. -/
structure RunResult where
  ending : RunEnd
  snapshot : Snapshot
  steps : Nat
  final : State
deriving DecidableEq, Repr

/-- The result of a run that stops in s after n successful steps. -/
def runResult (e : RunEnd) (s : State) (n : Nat) : RunResult := ⟨e, s.snapshot, n, s⟩

/-- CONTINUE's loop with `left` steps below the ceiling and n steps made: the completion test comes before the ceiling
test (R351). -/
def continueLoop : Nat → Nat → State → RunResult
  | left, n, s =>
    if s.completed then runResult .completed s n
    else
      match left with
      | 0 => runResult .ceiling s n
      | left + 1 =>
        match step s with
        | .next t => continueLoop left (n + 1) t
        | .fault f => runResult (.stopped (.fault f)) s n
        | .refused r => runResult (.stopped (.refused r)) s n

/-- CONTINUE(CODE) (R351). -/
def State.hostContinue (s : State) (code : List Byte) : Except CallError RunResult :=
  s.guarded (.ok (continueLoop s.cfg.stepLimit 0 { s with code := code }))

/-- RUN(CODE): RESET, then CONTINUE (R350). -/
def State.hostRun (s : State) (code : List Byte) : Except CallError RunResult :=
  s.hostReset.bind fun t => t.hostContinue code

/-- One entry of DEBUG's trace (R352). -/
structure TraceEntry where
  instruction : Record
  before : Snapshot
  after : Snapshot
  memory : List Byte
deriving DecidableEq, Repr

/-- What DEBUG returns (R352), with the state it leaves. -/
structure DebugResult where
  ending : RunEnd
  trace : List TraceEntry
  final : State
deriving DecidableEq, Repr

/-- The trace entry of a step from s to t. -/
def traceEntry (s t : State) : TraceEntry := ⟨s.record, s.snapshot, t.snapshot, t.leadingMemory⟩

/-- DEBUG's loop: each successful step adds an entry; a failing one leaves the trace as it is (R352). -/
def debugLoop : Nat → State → DebugResult
  | left, s =>
    if s.completed then ⟨.completed, [], s⟩
    else
      match left with
      | 0 => ⟨.ceiling, [], s⟩
      | left + 1 =>
        match step s with
        | .next t =>
          let r := debugLoop left t
          { r with trace := traceEntry s t :: r.trace }
        | .fault f => ⟨.stopped (.fault f), [], s⟩
        | .refused r => ⟨.stopped (.refused r), [], s⟩

/-- DEBUG(CODE): RESET, then the loop with the ceiling STEP_LIMIT (R352, conflict C6). -/
def State.hostDebug (s : State) (code : List Byte) : Except CallError DebugResult :=
  s.hostReset.bind fun t => .ok (debugLoop t.cfg.stepLimit { t with code := code })

/-! ## The registry (R305, R325)

An explicit value of the caller's, one instance for each key (log entry 23). -/

/-- The registry. -/
structure Registry where
  x86 : State
  arm : State
  riscv : State
deriving DecidableEq, Repr

/-- A new registry from the parameters the instances share: each instance is constructed, hence reset (R21, R340). -/
def Registry.construct (c : Config) : Registry where
  x86 := State.construct { c with arch := .x86 }
  arm := State.construct { c with arch := .arm }
  riscv := State.construct { c with arch := .riscv }

/-- The architecture of a key (R2, R325). -/
def archOfKey (key : String) : Option Arch :=
  if key = "x86" then some .x86
  else if key = "arm" then some .arm
  else if key = "riscv" then some .riscv
  else none

/-- The instance of an architecture. -/
def Registry.at (r : Registry) : Arch → State
  | .x86 => r.x86
  | .arm => r.arm
  | .riscv => r.riscv

/-- The registry with the instance of an architecture replaced. -/
def Registry.put (r : Registry) (arch : Arch) (s : State) : Registry :=
  match arch with
  | .x86 => { r with x86 := s }
  | .arm => { r with arm := s }
  | .riscv => { r with riscv := s }

/-- get(architecture) (R305, R325): UnsupportedArchitecture for an unknown key, touching no instance. -/
def Registry.get (r : Registry) (key : String) : Except CallError State :=
  match archOfKey key with
  | some arch => .ok (r.at arch)
  | none => .error (.fault (.unsupportedArchitecture key))

/-- The variant the registry reports without calling the backend (R306). -/
def Registry.capability (r : Registry) (key : String) : Except CallError Variant :=
  (r.get key).map fun s => s.cfg.variant

/-- A delegated call that leaves a new instance state (R325). -/
def Registry.update {α : Type} (r : Registry) (key : String) (call : State → Except CallError (α × State)) :
    Except CallError (α × Registry) :=
  match archOfKey key with
  | some arch => (call (r.at arch)).map fun p => (p.1, r.put arch p.2)
  | none => .error (.fault (.unsupportedArchitecture key))

/-- reset, delegated. -/
def Registry.reset (r : Registry) (key : String) : Except CallError (Unit × Registry) :=
  r.update key fun s => s.hostReset.map fun t => ((), t)

/-- step, delegated. -/
def Registry.step (r : Registry) (key : String) (code : List Byte) : Except CallError (StepResult × Registry) :=
  r.update key fun s => s.hostStep code

/-- run, delegated. -/
def Registry.run (r : Registry) (key : String) (code : List Byte) : Except CallError (RunResult × Registry) :=
  r.update key fun s => (s.hostRun code).map fun res => (res, res.final)

/-- debug, delegated. -/
def Registry.debug (r : Registry) (key : String) (code : List Byte) : Except CallError (DebugResult × Registry) :=
  r.update key fun s => (s.hostDebug code).map fun res => (res, res.final)

/-- assemble, delegated. -/
def Registry.assemble (r : Registry) (key text : String) : Except CallError (List Byte) :=
  (r.get key).bind fun s => s.hostAssemble text

/-- validate, delegated. -/
def Registry.validate (r : Registry) (key text : String) : Except CallError Validation :=
  (r.get key).bind fun s => s.hostValidate text

end Sys2Proof.Machine
end

