-- ==== Sys2Proof/Safety.lean ====
section
/-! DEFINITION. What the statements are made of: a safe run, the invariant of the machine, the kinds of instructions the spec
lists, and what an instruction leaves unchanged. -/

namespace Sys2Proof

/-! ## The kinds of instructions -/

/-- The control-transfer instructions (R41): they set the pc themselves. -/
def Instr.transfersControl : Instr → Bool
  | .x86Ret | .x86Jmp _ | .x86Call _ | .armB _ | .armBL _ | .armBxLr | .rvJal _ _ | .rvJalr _ _ _ => true
  | .x86MovRI _ _ | .x86MovRR _ _ | .x86AddRR _ _ | .x86SubRR _ _ | .x86Push _ | .x86Pop _ | .x86Int _
  | .x86Nop | .armMovRR _ _ | .armMovRI _ _ _ | .armAddRR _ _ _ | .armAddsRR _ _ _ | .armSubRR _ _ _
  | .armSubsRR _ _ _ | .armPush _ | .armPop _ | .armSvc _ | .rvLui _ _ | .rvAddi _ _ _ | .rvAdd _ _ _
  | .rvSub _ _ _ | .rvLw _ _ _ | .rvSw _ _ _ | .rvEcall => false

/-- The instructions that reach data memory (R47): they can raise MemoryOutOfBounds (R300). -/
def Instr.accessesMemory : Instr → Bool
  | .x86Push _ | .x86Pop _ | .x86Ret | .x86Call _ | .armPush _ | .armPop _ | .rvLw _ _ _ | .rvSw _ _ _ => true
  | .x86MovRI _ _ | .x86MovRR _ _ | .x86AddRR _ _ | .x86SubRR _ _ | .x86Int _ | .x86Jmp _ | .x86Nop
  | .armMovRR _ _ | .armMovRI _ _ _ | .armAddRR _ _ _ | .armAddsRR _ _ _ | .armSubRR _ _ _ | .armSubsRR _ _ _
  | .armB _ | .armBL _ | .armBxLr | .armSvc _ | .rvLui _ _ | .rvAddi _ _ _ | .rvAdd _ _ _ | .rvSub _ _ _
  | .rvJal _ _ | .rvJalr _ _ _ | .rvEcall => false

/-- The instructions that store a word to data memory (R170, R172, R214, R256). -/
def Instr.storesWord : Instr → Bool
  | .x86Push _ | .x86Call _ | .armPush _ | .rvSw _ _ _ => true
  | .x86MovRI _ _ | .x86MovRR _ _ | .x86AddRR _ _ | .x86SubRR _ _ | .x86Pop _ | .x86Ret | .x86Int _ | .x86Jmp _
  | .x86Nop | .armMovRR _ _ | .armMovRI _ _ _ | .armAddRR _ _ _ | .armAddsRR _ _ _ | .armSubRR _ _ _
  | .armSubsRR _ _ _ | .armPop _ | .armB _ | .armBL _ | .armBxLr | .armSvc _ | .rvLui _ _ | .rvAddi _ _ _
  | .rvAdd _ _ _ | .rvSub _ _ _ | .rvLw _ _ _ | .rvJal _ _ | .rvJalr _ _ _ | .rvEcall => false

/-- The instructions that can raise MisalignedPC (R303). -/
def Instr.checksTarget : Instr → Bool
  | .armBxLr | .rvJal _ _ | .rvJalr _ _ _ => true
  | .x86MovRI _ _ | .x86MovRR _ _ | .x86AddRR _ _ | .x86SubRR _ _ | .x86Push _ | .x86Pop _ | .x86Ret
  | .x86Int _ | .x86Jmp _ | .x86Call _ | .x86Nop | .armMovRR _ _ | .armMovRI _ _ _ | .armAddRR _ _ _
  | .armAddsRR _ _ _ | .armSubRR _ _ _ | .armSubsRR _ _ _ | .armPush _ | .armPop _ | .armB _ | .armBL _
  | .armSvc _ | .rvLui _ _ | .rvAddi _ _ _ | .rvAdd _ _ _ | .rvSub _ _ _ | .rvLw _ _ _ | .rvSw _ _ _ | .rvEcall => false

/-- The instructions that write the x86 flags (R30). -/
def Instr.writesX86Flags : Instr → Bool
  | .x86AddRR _ _ | .x86SubRR _ _ => true
  | .x86MovRI _ _ | .x86MovRR _ _ | .x86Push _ | .x86Pop _ | .x86Ret | .x86Int _ | .x86Jmp _ | .x86Call _
  | .x86Nop | .armMovRR _ _ | .armMovRI _ _ _ | .armAddRR _ _ _ | .armAddsRR _ _ _ | .armSubRR _ _ _
  | .armSubsRR _ _ _ | .armPush _ | .armPop _ | .armB _ | .armBL _ | .armBxLr | .armSvc _ | .rvLui _ _
  | .rvAddi _ _ _ | .rvAdd _ _ _ | .rvSub _ _ _ | .rvLw _ _ _ | .rvSw _ _ _ | .rvJal _ _ | .rvJalr _ _ _
  | .rvEcall => false

/-- The instructions that write the ARM flags (R34). -/
def Instr.writesArmFlags : Instr → Bool
  | .armAddsRR _ _ _ | .armSubsRR _ _ _ => true
  | .x86MovRI _ _ | .x86MovRR _ _ | .x86AddRR _ _ | .x86SubRR _ _ | .x86Push _ | .x86Pop _ | .x86Ret
  | .x86Int _ | .x86Jmp _ | .x86Call _ | .x86Nop | .armMovRR _ _ | .armMovRI _ _ _ | .armAddRR _ _ _
  | .armSubRR _ _ _ | .armPush _ | .armPop _ | .armB _ | .armBL _ | .armBxLr | .armSvc _ | .rvLui _ _
  | .rvAddi _ _ _ | .rvAdd _ _ _ | .rvSub _ _ _ | .rvLw _ _ _ | .rvSw _ _ _ | .rvJal _ _ | .rvJalr _ _ _
  | .rvEcall => false

/-! ## Fields of an instruction word, as the rules write its encoding -/

/-- A register number at bit lo of a word. -/
def regAt {n : Nat} (r : Fin n) (lo : Nat) : Word := BitVec.ofNat 32 r.val <<< lo

/-- A field at bit lo of a word. -/
def fieldAt {n : Nat} (v : BitVec n) (lo : Nat) : Word := v.zeroExtend 32 <<< lo

namespace Machine

/-! ## Safe runs and the invariant -/

/-- A run of k steps from s that no fault and no refusal ends. -/
def SafeRun (k : Nat) (s : State) : Prop := ∃ t, Host.Core.run core k s = .next t

/-- The invariant of the machine: memory is in canonical form and lies below MEM_SIZE (20_memory R60, R65); the cell of the
RISC-V x0 is 0 (10_state R36, R38); and an ARM or RISC-V pc is a multiple of 4 (R42). -/
structure State.Inv (s : State) : Prop where
  memWf : s.mem.wf
  memBelow : s.mem.below s.cfg.memSize
  zeroCell : s.riscv[0] = 0
  pcAligned : s.cfg.arch ≠ .x86 → aligned4 s.pc = true

/-! ## Frames: what is unchanged from s to t -/

/-- The parameters and the code buffer. -/
def SameInputs (s t : State) : Prop := t.cfg = s.cfg ∧ t.code = s.code

/-- The x86 registers outside a list. -/
def SameX86But (rs : List X86Reg) (s t : State) : Prop := ∀ q, q ∉ rs → t.x86Get q = s.x86Get q

/-- The ARM registers outside a list. -/
def SameArmBut (rs : List ArmReg) (s t : State) : Prop := ∀ q, q ∉ rs → t.armGet q = s.armGet q

/-- The RISC-V registers outside a list. -/
def SameRvBut (rs : List RvReg) (s t : State) : Prop := ∀ q, q ∉ rs → t.rvGet q = s.rvGet q

/-- The register files and flags that are not x86's. -/
def SameNonX86 (s t : State) : Prop := SameArmBut [] s t ∧ t.armFlags = s.armFlags ∧ SameRvBut [] s t

/-- The register files and flags that are not ARM's. -/
def SameNonArm (s t : State) : Prop := SameX86But [] s t ∧ t.x86Flags = s.x86Flags ∧ SameRvBut [] s t

/-- The register files and flags that are not RISC-V's. -/
def SameNonRv (s t : State) : Prop :=
  SameX86But [] s t ∧ t.x86Flags = s.x86Flags ∧ SameArmBut [] s t ∧ t.armFlags = s.armFlags

/-- Every byte of data memory. -/
def SameMemory (s t : State) : Prop := ∀ b, t.mem.read b = s.mem.read b

/-- Every byte of data memory outside the four at addr. -/
def SameMemoryOutside (addr : Word) (s t : State) : Prop :=
  ∀ b, (b < addr.toNat ∨ addr.toNat + 4 ≤ b) → t.mem.read b = s.mem.read b

/-- The four bytes at addr hold v, the least significant byte lowest (20_memory R61, R63). -/
def HoldsWord (t : State) (addr v : Word) : Prop :=
  t.mem.read addr.toNat = v.extractLsb' 0 8 ∧ t.mem.read (addr.toNat + 1) = v.extractLsb' 8 8 ∧
    t.mem.read (addr.toNat + 2) = v.extractLsb' 16 8 ∧ t.mem.read (addr.toNat + 3) = v.extractLsb' 24 8

/-- The little-endian word at addr (20_memory R61, R62). -/
def wordIn (s : State) (addr : Word) : Word :=
  s.mem.read (addr.toNat + 3) ++ s.mem.read (addr.toNat + 2) ++ s.mem.read (addr.toNat + 1) ++ s.mem.read addr.toNat

/-- What an x86 instruction that reaches no memory leaves unchanged, its registers and flags apart. -/
def X86Frame (s t : State) : Prop := SameInputs s t ∧ SameMemory s t ∧ SameNonX86 s t

/-- What an x86 instruction that stores at addr leaves unchanged, its registers and flags apart. -/
def X86StoreFrame (addr : Word) (s t : State) : Prop := SameInputs s t ∧ SameMemoryOutside addr s t ∧ SameNonX86 s t

/-- What an ARM instruction that reaches no memory leaves unchanged, its registers and flags apart. -/
def ArmFrame (s t : State) : Prop := SameInputs s t ∧ SameMemory s t ∧ SameNonArm s t

/-- What an ARM instruction that stores at addr leaves unchanged, its registers and flags apart. -/
def ArmStoreFrame (addr : Word) (s t : State) : Prop := SameInputs s t ∧ SameMemoryOutside addr s t ∧ SameNonArm s t

/-- What a RISC-V instruction that stores nothing leaves unchanged, its registers apart. -/
def RvFrame (s t : State) : Prop := SameInputs s t ∧ SameMemory s t ∧ SameNonRv s t

/-- What a RISC-V instruction that stores at addr leaves unchanged, its registers apart. -/
def RvStoreFrame (addr : Word) (s t : State) : Prop := SameInputs s t ∧ SameMemoryOutside addr s t ∧ SameNonRv s t

end Machine

end Sys2Proof
end

