-- ==== Sys2Proof/Certificates/Slice0/Obligations.lean ====
section
/-! DEFINITION. The statements for the provers. Each docstring names the rules of spec/ it formalises. -/

open Sys2Proof Sys2Proof.Machine

/-! ## Reset and the invariant -/

/-- R21, R340: construction leaves every general register 0 except the stack pointer, which is SP_RESET (by default MEM_SIZE),
every flag false, every memory byte 0 and pc 0; RESET leaves the same, whatever the state was, and raises nothing but
NotImplemented on an Unimplemented backend. -/
def Obligations.ResetLeavesEveryPieceAtItsResetValue : Prop :=
  (∀ cfg : Config,
    let t := State.construct cfg
    (∀ q, t.x86Get q = if q = esp then cfg.spReset else 0) ∧ (∀ q, t.armGet q = if q = armSp then cfg.spReset else 0) ∧
      (∀ q, t.rvGet q = if q = rvSp then cfg.spReset else 0) ∧
      t.x86Flags = ⟨false, false, false, false, false⟩ ∧ t.armFlags = ⟨false, false, false, false⟩ ∧
      (∀ a, t.mem.read a = 0) ∧ t.pc = 0 ∧ t.cfg = cfg) ∧
  (∀ arch : Arch, (Config.default arch).spReset.toNat = (Config.default arch).memSize) ∧
  ∀ s : State,
    (s.cfg.variant = .minimal →
      ∃ t, s.hostReset = .ok t ∧ (∀ r, t.genGet r = (State.construct s.cfg).genGet r) ∧
        t.x86Flags = (State.construct s.cfg).x86Flags ∧ t.armFlags = (State.construct s.cfg).armFlags ∧
        (∀ a, t.mem.read a = 0) ∧ t.pc = 0 ∧ t.cfg = s.cfg) ∧
    (s.cfg.variant = .unimplemented → s.hostReset = .error (.fault (.notImplemented s.cfg.arch)))

/-- The invariant holds after construction with any parameters, and at State.reset (R21, R42, R60). -/
def Obligations.ResetMeetsTheInvariant : Prop :=
  (∀ cfg : Config, (State.construct cfg).Inv) ∧ State.reset.Inv

/-- Every step keeps the invariant: canonical memory below MEM_SIZE, the x0 cell 0, an ARM or RISC-V pc a multiple of 4 (R36,
R38, R42, R60, R65). -/
def Obligations.StepKeepsTheInvariant : Prop :=
  ∀ s t : State, s.Inv → step s = .next t → t.Inv

/-! ## Data memory -/

/-- R61, R62, R63: a store answered by the machine puts the word's bytes, least significant lowest, at its four addresses,
changes no other byte, and is what a load from the address then gives. -/
def Obligations.StoreThenLoadGivesTheWord : Prop :=
  ∀ (s t : State) (addr v : Word), s.mem.wf → s.memWrite addr v = .ok t →
    HoldsWord t addr v ∧ SameMemoryOutside addr s t ∧ t.memRead addr = .ok v

/-- R65, R62: an access of n bytes is in bounds when u(addr) + n ≤ MEM_SIZE on unbounded integers. The block's accesses are 4
bytes (R64): one in bounds is answered, a read with the four bytes at its address; one out of bounds raises
MemoryOutOfBounds(addr, 4), at 0xFFFFFFFE in particular for any memory that ends below 2^32 + 2. -/
def Obligations.AccessOutOfBoundsRaises : Prop :=
  ∀ (s : State) (addr v : Word),
    (∀ n, s.inBounds addr n = true ↔ addr.toNat + n ≤ s.cfg.memSize) ∧
    (addr.toNat + 4 ≤ s.cfg.memSize → s.memRead addr = .ok (wordIn s addr) ∧ ∃ t, s.memWrite addr v = .ok t) ∧
    (s.cfg.memSize < addr.toNat + 4 →
      s.memRead addr = .error (.memoryOutOfBounds addr 4 s.pc) ∧
        s.memWrite addr v = .error (.memoryOutOfBounds addr 4 s.pc)) ∧
    (s.cfg.memSize < 2 ^ 32 + 2 → s.memRead 0xFFFFFFFE = .error (.memoryOutOfBounds 0xFFFFFFFE 4 s.pc))

/-! ## Decoding -/

/-- Decoding an encoded well-formed instruction, whatever bytes follow it, gives the instruction back, with every operand at
every value (30_encoding sections 2 to 4). -/
def Obligations.DecodeOfEncodeIsTheInstruction : Prop :=
  ∀ (i : Instr) (rest : List Byte), i.wellFormed = true → decodeBytes i.arch (encode i ++ rest) = .instr i

/-- Each encoding has one meaning: a decoded instruction is well formed, belongs to the decoding architecture, and its
encoding is the very bytes it was decoded from (missing ones read as 0). -/
def Obligations.DecodedBytesAreTheEncoding : Prop :=
  ∀ (arch : Arch) (bytes : List Byte) (i : Instr), decodeBytes arch bytes = .instr i →
    i.wellFormed = true ∧ i.arch = arch ∧ encode i = (List.range i.size).map (byteAt bytes)

/-- R83: no two rows of one table match the same bytes. -/
def Obligations.NoTwoRowsMatchTheSameBytes : Prop :=
  x86Rows.Pairwise (fun r q => ∀ w, ¬(r.hits w = true ∧ q.hits w = true)) ∧
    armRows.Pairwise (fun r q => ∀ w, ¬(r.hits w = true ∧ q.hits w = true)) ∧
    rvRows.Pairwise (fun r q => ∀ w, ¬(r.hits w = true ∧ q.hits w = true))

/-- R91: on any bytes the record the x86 table gives is the record the decode procedure returns. -/
def Obligations.X86TableRecordIsTheProcedureRecord : Prop :=
  ∀ bytes : List Byte, recordOf .x86 bytes = x86ProcedureRecord (byteAt bytes 0) (byteAt bytes 1) (wordAt bytes 1)

/-- R92: where no row matches, the record is the unmatched one of size UNIT, and the step is a no-op of UNIT bytes, or raises
IllegalInstruction(pc, opcode) under STRICT_DECODE. -/
def Obligations.UnmatchedBytesAreASkippedUnitOrIllegal : Prop :=
  (∀ (arch : Arch) (bytes : List Byte), decodeInstr arch bytes = none →
    decodeBytes arch bytes = .unmatched (opcodeOf arch bytes) ∧
      recordOf arch bytes =
        ⟨opcodeOf arch bytes, [], match arch with | .x86 => 1 | .arm => 4 | .riscv => 4, "NOP_UNMATCHED"⟩) ∧
  ∀ (s : State) (opcode : Word), s.cfg.variant = .minimal → s.pc.toNat < s.code.length →
    decode s.cfg.arch s.code s.pc = .unmatched opcode →
      (s.cfg.strictDecode = false →
        step s = .next (s.jump (s.pc + match s.cfg.arch with | .x86 => 1 | .arm => 4 | .riscv => 4))) ∧
      (s.cfg.strictDecode = true → step s = .fault (.illegalInstruction s.pc opcode))

/-- Words written out from the encodings of R90, R97 and R102 decode to the instructions they stand for. -/
def Obligations.WordsOfTheTablesDecode : Prop :=
  decodeBytes .x86 [0xB8, 0x78, 0x56, 0x34, 0x12] = .instr (.x86MovRI 0 0x12345678) ∧
    decodeBytes .x86 [0x89, 0xD8] = .instr (.x86MovRR 0 3) ∧
    decodeBytes .x86 [0x89, 0x00] = .unmatched 0x89 ∧
    decodeBytes .arm [0xFF, 0x14, 0xA0, 0xE3] = .instr (.armMovRI 1 4 0xFF) ∧
    decodeBytes .arm [0x05, 0x00, 0xA0, 0x03] = .unmatched 0x03A00005 ∧
    decodeBytes .riscv [0x13, 0x05, 0x00, 0x80] = .instr (.rvAddi 10 0 0x800) ∧
    decodeBytes .riscv [0x73, 0x00, 0x10, 0x00] = .unmatched 0x00100073

/-- R81: a code byte is the buffer's where the buffer has one and 0 past its end, so a decode is the same as on the buffer
followed by any number of zero bytes. -/
def Obligations.DecodeReadsZeroPastTheEnd : Prop :=
  (∀ (code : List Byte) (a : Word),
    codeByte code a = if h : a.toNat < code.length then code[a.toNat] else 0) ∧
  ∀ (arch : Arch) (code : List Byte) (pc : Word) (n : Nat),
    decode arch (code ++ List.replicate n 0) pc = decode arch code pc

/-! ## The step -/

/-- A step at a pc whose bytes decode to an instruction is that instruction's execution; nothing stands around it (R321). -/
def Obligations.StepRunsTheDecodedInstruction : Prop :=
  ∀ (s : State) (i : Instr), s.cfg.variant = .minimal → s.pc.toNat < s.code.length →
    decode s.cfg.arch s.code s.pc = .instr i → step s = exec i s

/-- R45, R82: completed is u(pc) ≥ CODE_LEN, and a step requested then changes nothing. -/
def Obligations.CompletedStepChangesNothing : Prop :=
  ∀ s : State, (s.completed = true ↔ s.code.length ≤ s.pc.toNat) ∧
    (s.cfg.variant = .minimal → s.code.length ≤ s.pc.toNat → step s = .next s)

/-- R307: NotImplemented comes first, then the completed test, then IllegalInstruction, then the instruction's own fault, of
which each instruction has at most one kind. -/
def Obligations.FaultsFollowTheirPriority : Prop :=
  ∀ s : State,
    (s.cfg.variant = .unimplemented → step s = .fault (.notImplemented s.cfg.arch)) ∧
    (s.cfg.variant = .minimal →
      (s.code.length ≤ s.pc.toNat → step s = .next s) ∧
      (s.pc.toNat < s.code.length →
        (∀ opcode, decode s.cfg.arch s.code s.pc = .unmatched opcode → s.cfg.strictDecode = true →
          step s = .fault (.illegalInstruction s.pc opcode)) ∧
        ∀ i f, decode s.cfg.arch s.code s.pc = .instr i → step s = .fault f →
          (i.accessesMemory = true ∧ i.checksTarget = false ∧ ∃ addr, f = .memoryOutOfBounds addr 4 s.pc) ∨
          (i.checksTarget = true ∧ i.accessesMemory = false ∧ ∃ target, f = .misalignedPC s.pc target)))

/-- A fault a step raises is one the spec describes, with its cause (R302 to R306): MemoryOutOfBounds records an access that
leaves memory, IllegalInstruction needs STRICT_DECODE, MisalignedPC is never raised on x86, and the pc is the instruction's. -/
def Obligations.EachFaultHasItsCause : Prop :=
  ∀ (s : State) (f : Fault), step s = .fault f →
    match f with
    | .memoryOutOfBounds addr size pc => size = 4 ∧ pc = s.pc ∧ s.cfg.memSize < addr.toNat + 4
    | .illegalInstruction pc opcode =>
      pc = s.pc ∧ s.cfg.strictDecode = true ∧ decode s.cfg.arch s.code s.pc = .unmatched opcode
    | .misalignedPC pc target => pc = s.pc ∧ s.cfg.arch ≠ .x86 ∧ target.toNat % 4 ≠ 0
    | .notImplemented arch => arch = s.cfg.arch ∧ s.cfg.variant = .unimplemented
    | .unsupportedArchitecture _ => False

/-- No step is refused: every instruction of the tables has its meaning, and every state steps to a next state or a fault. -/
def Obligations.NoStepIsRefused : Prop :=
  ∀ s : State, (∃ t, step s = .next t) ∨ ∃ f, step s = .fault f

/-- Only ADD and SUB write x86 flags, only ADDS and SUBS write ARM flags (R30, R34). -/
def Obligations.OnlyAddAndSubWriteFlags : Prop :=
  ∀ (i : Instr) (s t : State), exec i s = .next t →
    (i.writesX86Flags = false → t.x86Flags = s.x86Flags) ∧ (i.writesArmFlags = false → t.armFlags = s.armFlags)

/-- No instruction reads a flag (R30, R34, D44): with other flags the outcome is the same but for the flags. -/
def Obligations.NoInstructionReadsAFlag : Prop :=
  ∀ (i : Instr) (s : State) (f : X86Flags) (g : ArmFlags),
    (∀ t, exec i s = .next t →
      ∃ t', exec i ((s.setX86Flags f).setArmFlags g) = .next t' ∧
        (t'.setX86Flags t.x86Flags).setArmFlags t.armFlags = t) ∧
    ∀ r, exec i s = .fault r → exec i ((s.setX86Flags f).setArmFlags g) = .fault r

/-- No step writes the code buffer or a parameter (R46, R50, R76, R362). -/
def Obligations.StepKeepsParametersAndCode : Prop :=
  ∀ s t : State, step s = .next t → t.cfg = s.cfg ∧ t.code = s.code

/-- A step changes the registers and flags of the active architecture alone (R2, R20; the model's own layout, log entries 1
and 9). -/
def Obligations.StepTouchesTheActiveArchitectureAlone : Prop :=
  ∀ s t : State, step s = .next t →
    (s.cfg.arch ≠ .x86 → t.x86 = s.x86 ∧ t.x86Flags = s.x86Flags) ∧
    (s.cfg.arch ≠ .arm → t.arm = s.arm ∧ t.armFlags = s.armFlags) ∧
    (s.cfg.arch ≠ .riscv → t.riscv = s.riscv)

/-- An instruction that does not store leaves data memory as it was (R47; PUSH, CALL, ARM PUSH and SW are the ones that store,
R170, R172, R214, R256). -/
def Obligations.OnlyStoresWriteMemory : Prop :=
  ∀ (i : Instr) (s t : State), exec i s = .next t → i.storesWord = false → t.mem = s.mem

/-- R40: after a step that neither faults nor transfers control the pc has advanced by the decoded record's size, UNIT for the
unmatched no-op. -/
def Obligations.PcAdvancesByTheRecordSize : Prop :=
  ∀ s t : State, s.cfg.variant = .minimal → s.pc.toNat < s.code.length → step s = .next t →
    (∀ i, decode s.cfg.arch s.code s.pc = .instr i → i.transfersControl = false →
      t.pc = s.pc + BitVec.ofNat 32 s.record.size) ∧
    (∀ opcode, decode s.cfg.arch s.code s.pc = .unmatched opcode → t.pc = s.pc + BitVec.ofNat 32 s.record.size)

/-! ## Registers -/

/-- R36, R38: x0 reads 0 always; a write to x0 is discarded and a write to any other register stores the value there and
nowhere else. -/
def Obligations.RiscvZeroRegister : Prop :=
  ∀ (s : State) (r : RvReg) (v : Word),
    s.rvGet 0 = 0 ∧ s.rvSet 0 v = s ∧ (r ≠ 0 → (s.rvSet r v).rvGet r = v) ∧ SameRvBut [r] s (s.rvSet r v)

/-- R23, R24, R25: after a 32-bit write every view of the register's code reads the bits of the value, the high-8 view at
HIGH8_LSB (by default 8), and the views of the other codes read as before. -/
def Obligations.ViewsFollowTheWideRegister : Prop :=
  (∀ arch : Arch, (Config.default arch).high8Lsb = .bit8) ∧
  ∀ (s : State) (r : X86Reg) (v : Word),
    let t := s.x86Set r v
    (∀ q, t.view16 q = if q = r then v.extractLsb' 0 16 else s.view16 q) ∧
      (∀ b : ByteReg, t.viewLow8 b = if b.wide = r then v.extractLsb' 0 8 else s.viewLow8 b) ∧
      ∀ b : ByteReg, t.viewHigh8 b =
        if b.wide = r then
          match s.cfg.high8Lsb with
          | .bit8 => v.extractLsb' 8 8
          | .bit16 => v.extractLsb' 16 8
        else s.viewHigh8 b

/-! ## x86

The opcode values, the ModRM layout, the parity sense, the overflow formulas, the near call and jump and what push esp and pop
esp do are the spec's own, supplied from general knowledge (93 K1, K2, K6 to K9). -/

/-- R140: MOV_RI is B8+r with a little-endian immediate, bytes missing at the end of the code read as 0; it copies the
immediate, writes no flag and cannot fault. -/
def Obligations.X86MovImmediate : Prop :=
  (∀ (r : X86Reg) (bytes : List Byte), byteAt bytes 0 = BitVec.ofNat 8 (0xB8 + r.val) →
    decodeBytes .x86 bytes =
      .instr (.x86MovRI r (byteAt bytes 4 ++ byteAt bytes 3 ++ byteAt bytes 2 ++ byteAt bytes 1))) ∧
  ∀ (r : X86Reg) (imm32 : Word) (s : State), ∃ t, exec (.x86MovRI r imm32) s = .next t ∧
    t.x86Get r = imm32 ∧ SameX86But [r] s t ∧ t.x86Flags = s.x86Flags ∧ t.pc = s.pc + 5 ∧ X86Frame s t

/-- R141: MOV_RR is 89 with ModRM 0xC0 + 8·s + d, and 89 with any other mode is unmatched; it copies the source, writes no
flag and cannot fault. -/
def Obligations.X86MovRegister : Prop :=
  (∀ (d src : X86Reg) (rest : List Byte),
    decodeBytes .x86 (0x89 :: BitVec.ofNat 8 (0xC0 + 8 * src.val + d.val) :: rest) = .instr (.x86MovRR d src)) ∧
  (∀ bytes : List Byte, byteAt bytes 0 = 0x89 → byteAt bytes 1 &&& 0xC0 ≠ 0xC0 →
    decodeBytes .x86 bytes = .unmatched 0x89) ∧
  ∀ (d src : X86Reg) (s : State), ∃ t, exec (.x86MovRR d src) s = .next t ∧
    t.x86Get d = s.x86Get src ∧ SameX86But [d] s t ∧ t.x86Flags = s.x86Flags ∧ t.pc = s.pc + 2 ∧ X86Frame s t

/-- R151, R152: ADD_RR is 01 with ModRM 0xC0 + 8·s + d (unmatched with another mode); it adds modulo 2^32 and writes all five
flags: CF the unsigned overflow, OF the signed overflow by its formula and by its meaning, ZF, SF and PF by R150. It cannot
fault. -/
def Obligations.X86AddWithFlags : Prop :=
  (∀ (d src : X86Reg) (rest : List Byte),
    decodeBytes .x86 (0x01 :: BitVec.ofNat 8 (0xC0 + 8 * src.val + d.val) :: rest) = .instr (.x86AddRR d src)) ∧
  (∀ bytes : List Byte, byteAt bytes 0 = 0x01 → byteAt bytes 1 &&& 0xC0 ≠ 0xC0 →
    decodeBytes .x86 bytes = .unmatched 0x01) ∧
  ∀ (d src : X86Reg) (s : State),
    let a := s.x86Get d
    let b := s.x86Get src
    let res := BitVec.ofNat 32 (a.toNat + b.toNat)
    ∃ t, exec (.x86AddRR d src) s = .next t ∧
      t.x86Get d = res ∧ SameX86But [d] s t ∧
      (t.x86Flags.CF = true ↔ 2 ^ 32 ≤ a.toNat + b.toNat) ∧
      (t.x86Flags.OF = true ↔ a.msb = b.msb ∧ res.msb ≠ a.msb) ∧
      (t.x86Flags.OF = true ↔ ¬(-2 ^ 31 ≤ a.toInt + b.toInt ∧ a.toInt + b.toInt ≤ 2 ^ 31 - 1)) ∧
      (t.x86Flags.ZF = true ↔ res = 0) ∧ (t.x86Flags.SF = true ↔ res.msb = true) ∧
      (t.x86Flags.PF = true ↔ popcount (res.extractLsb' 0 8) % 2 = 0) ∧
      t.pc = s.pc + 2 ∧ X86Frame s t

/-- R155, R156: SUB_RR is 29 with ModRM 0xC0 + 8·s + d (unmatched with another mode); it subtracts modulo 2^32 and writes all
five flags: CF the borrow, OF the signed overflow by its formula and by its meaning, ZF, SF and PF by R150. It cannot fault. -/
def Obligations.X86SubWithFlags : Prop :=
  (∀ (d src : X86Reg) (rest : List Byte),
    decodeBytes .x86 (0x29 :: BitVec.ofNat 8 (0xC0 + 8 * src.val + d.val) :: rest) = .instr (.x86SubRR d src)) ∧
  (∀ bytes : List Byte, byteAt bytes 0 = 0x29 → byteAt bytes 1 &&& 0xC0 ≠ 0xC0 →
    decodeBytes .x86 bytes = .unmatched 0x29) ∧
  ∀ (d src : X86Reg) (s : State),
    let a := s.x86Get d
    let b := s.x86Get src
    let res := BitVec.ofInt 32 ((a.toNat : Int) - (b.toNat : Int))
    ∃ t, exec (.x86SubRR d src) s = .next t ∧
      t.x86Get d = res ∧ SameX86But [d] s t ∧
      (t.x86Flags.CF = true ↔ a.toNat < b.toNat) ∧
      (t.x86Flags.OF = true ↔ a.msb ≠ b.msb ∧ res.msb ≠ a.msb) ∧
      (t.x86Flags.OF = true ↔ ¬(-2 ^ 31 ≤ a.toInt - b.toInt ∧ a.toInt - b.toInt ≤ 2 ^ 31 - 1)) ∧
      (t.x86Flags.ZF = true ↔ res = 0) ∧ (t.x86Flags.SF = true ↔ res.msb = true) ∧
      (t.x86Flags.PF = true ↔ popcount (res.extractLsb' 0 8) % 2 = 0) ∧
      t.pc = s.pc + 2 ∧ X86Frame s t

/-- R170: PUSH is 50+r; it stores the register's old value at esp - 4 and moves esp there, or raises MemoryOutOfBounds(esp -
4, 4). The canonical form of memory is the premise (StepKeepsTheInvariant). -/
def Obligations.X86Push : Prop :=
  (∀ (r : X86Reg) (rest : List Byte),
    decodeBytes .x86 (BitVec.ofNat 8 (0x50 + r.val) :: rest) = .instr (.x86Push r)) ∧
  ∀ (r : X86Reg) (s : State), s.mem.wf →
    let sp1 := s.x86Get esp - 4
    (sp1.toNat + 4 ≤ s.cfg.memSize → ∃ t, exec (.x86Push r) s = .next t ∧
      HoldsWord t sp1 (s.x86Get r) ∧ t.x86Get esp = sp1 ∧ SameX86But [esp] s t ∧ t.x86Flags = s.x86Flags ∧
      t.pc = s.pc + 1 ∧ X86StoreFrame sp1 s t) ∧
    (s.cfg.memSize < sp1.toNat + 4 → exec (.x86Push r) s = .fault (.memoryOutOfBounds sp1 4 s.pc))

/-- R171: POP is 58+r; it reads the word at esp, adds 4 to esp and then writes the register, so pop esp keeps the word; or it
raises MemoryOutOfBounds(esp, 4). -/
def Obligations.X86Pop : Prop :=
  (∀ (r : X86Reg) (rest : List Byte),
    decodeBytes .x86 (BitVec.ofNat 8 (0x58 + r.val) :: rest) = .instr (.x86Pop r)) ∧
  ∀ (r : X86Reg) (s : State),
    let sp0 := s.x86Get esp
    (sp0.toNat + 4 ≤ s.cfg.memSize → ∃ t, exec (.x86Pop r) s = .next t ∧
      t.x86Get r = wordIn s sp0 ∧ (r ≠ esp → t.x86Get esp = sp0 + 4) ∧ SameX86But [esp, r] s t ∧
      t.x86Flags = s.x86Flags ∧ t.pc = s.pc + 1 ∧ X86Frame s t) ∧
    (s.cfg.memSize < sp0.toNat + 4 → exec (.x86Pop r) s = .fault (.memoryOutOfBounds sp0 4 s.pc))

/-- R175: a push followed by a pop of the same register restores every register, esp among them; after a reset with SP_RESET =
MEM_SIZE both complete for every register, and with SP_RESET = 0 the push faults. -/
def Obligations.PushThenPopRestoresTheRegisters : Prop :=
  (∀ (r : X86Reg) (s : State), s.mem.wf → (s.x86Get esp - 4).toNat + 4 ≤ s.cfg.memSize →
    ∃ t u, exec (.x86Push r) s = .next t ∧ exec (.x86Pop r) t = .next u ∧ SameX86But [] s u ∧ u.x86Flags = s.x86Flags) ∧
  (∀ (r : X86Reg) (cfg : Config), cfg.spReset.toNat = cfg.memSize → 4 ≤ cfg.memSize →
    ∃ t u, exec (.x86Push r) (State.construct cfg) = .next t ∧ exec (.x86Pop r) t = .next u ∧
      SameX86But [] (State.construct cfg) u) ∧
  ∀ (r : X86Reg) (cfg : Config), cfg.spReset = 0 → cfg.memSize < 2 ^ 32 →
    exec (.x86Push r) (State.construct cfg) = .fault (.memoryOutOfBounds 0xFFFFFFFC 4 0)

/-- R172 ("This spec's rule is the IA-32 near call"): CALL is E8 with a little-endian displacement; it pushes pc + 5 and goes
to pc + 5 + disp32, or raises MemoryOutOfBounds(esp - 4, 4). -/
def Obligations.X86Call : Prop :=
  (∀ bytes : List Byte, byteAt bytes 0 = 0xE8 →
    decodeBytes .x86 bytes =
      .instr (.x86Call (byteAt bytes 4 ++ byteAt bytes 3 ++ byteAt bytes 2 ++ byteAt bytes 1))) ∧
  ∀ (disp32 : Word) (s : State), s.mem.wf →
    let sp1 := s.x86Get esp - 4
    (sp1.toNat + 4 ≤ s.cfg.memSize → ∃ t, exec (.x86Call disp32) s = .next t ∧
      HoldsWord t sp1 (s.pc + 5) ∧ t.x86Get esp = sp1 ∧ SameX86But [esp] s t ∧ t.x86Flags = s.x86Flags ∧
      t.pc = s.pc + 5 + disp32 ∧ X86StoreFrame sp1 s t) ∧
    (s.cfg.memSize < sp1.toNat + 4 → exec (.x86Call disp32) s = .fault (.memoryOutOfBounds sp1 4 s.pc))

/-- R173: RET is C3; it pops the word at esp into the pc, any word, or raises MemoryOutOfBounds(esp, 4). -/
def Obligations.X86Ret : Prop :=
  (∀ rest : List Byte, decodeBytes .x86 (0xC3 :: rest) = .instr .x86Ret) ∧
  ∀ s : State,
    let sp0 := s.x86Get esp
    (sp0.toNat + 4 ≤ s.cfg.memSize → ∃ t, exec .x86Ret s = .next t ∧
      t.pc = wordIn s sp0 ∧ t.x86Get esp = sp0 + 4 ∧ SameX86But [esp] s t ∧ t.x86Flags = s.x86Flags ∧
      X86Frame s t) ∧
    (s.cfg.memSize < sp0.toNat + 4 → exec .x86Ret s = .fault (.memoryOutOfBounds sp0 4 s.pc))

/-- R174 ("This spec's rule is the IA-32 near relative jump"): JMP is E9 with a little-endian displacement; it goes to pc + 5
+ disp32 and changes nothing else. -/
def Obligations.X86Jmp : Prop :=
  (∀ bytes : List Byte, byteAt bytes 0 = 0xE9 →
    decodeBytes .x86 bytes =
      .instr (.x86Jmp (byteAt bytes 4 ++ byteAt bytes 3 ++ byteAt bytes 2 ++ byteAt bytes 1))) ∧
  ∀ (disp32 : Word) (s : State), ∃ t, exec (.x86Jmp disp32) s = .next t ∧
    t.pc = s.pc + 5 + disp32 ∧ SameX86But [] s t ∧ t.x86Flags = s.x86Flags ∧ X86Frame s t

/-- R190, R191: INT is CD ib (ib read as 0 past the end of the code), and its record carries the number; NOP is 90; both
change nothing but the pc, which advances by 2 and by 1. -/
def Obligations.X86IntAndNopOnlyAdvance : Prop :=
  (∀ bytes : List Byte, byteAt bytes 0 = 0xCD → decodeBytes .x86 bytes = .instr (.x86Int (byteAt bytes 1)) ∧
    recordOf .x86 bytes = ⟨0xCD, [(byteAt bytes 1).zeroExtend 32], 2, "INT"⟩) ∧
  (∀ rest : List Byte, decodeBytes .x86 (0x90 :: rest) = .instr .x86Nop) ∧
  (∀ (imm8 : Byte) (s : State), ∃ t, exec (.x86Int imm8) s = .next t ∧
    t.pc = s.pc + 2 ∧ SameX86But [] s t ∧ t.x86Flags = s.x86Flags ∧ X86Frame s t) ∧
  ∀ s : State, ∃ t, exec .x86Nop s = .next t ∧
    t.pc = s.pc + 1 ∧ SameX86But [] s t ∧ t.x86Flags = s.x86Flags ∧ X86Frame s t

/-! ## ARM

The spec supplies the ARM rules itself: "Everything in this file below rule R200 is this spec's choice" (44_arm; 93 K11 to
K15). -/

/-- R202, R203: the ARM moves copy a register or the modified immediate ROR(zext_32(imm8), 2·rot), and write no flag. -/
def Obligations.ArmMoves : Prop :=
  (∀ rd rm : ArmReg, decodeArm (0xE1A00000 ||| regAt rd 12 ||| regAt rm 0) = some (.armMovRR rd rm)) ∧
  (∀ (rd : ArmReg) (rot : BitVec 4) (imm8 : Byte),
    decodeArm (0xE3A00000 ||| regAt rd 12 ||| fieldAt rot 8 ||| fieldAt imm8 0) = some (.armMovRI rd rot imm8)) ∧
  (∀ (rd rm : ArmReg) (s : State), ∃ t, exec (.armMovRR rd rm) s = .next t ∧
    t.armGet rd = s.armGet rm ∧ SameArmBut [rd] s t ∧ t.armFlags = s.armFlags ∧ t.pc = s.pc + 4 ∧ ArmFrame s t) ∧
  ∀ (rd : ArmReg) (rot : BitVec 4) (imm8 : Byte) (s : State), ∃ t, exec (.armMovRI rd rot imm8) s = .next t ∧
    t.armGet rd = (imm8.zeroExtend 32).rotateRight (2 * rot.toNat) ∧ SameArmBut [rd] s t ∧
    t.armFlags = s.armFlags ∧ t.pc = s.pc + 4 ∧ ArmFrame s t

/-- R204, R210: ADD and SUB without S add and subtract modulo 2^32 and write no flag. -/
def Obligations.ArmAddAndSubWithoutFlags : Prop :=
  (∀ rd rn rm : ArmReg,
    decodeArm (0xE0800000 ||| regAt rn 16 ||| regAt rd 12 ||| regAt rm 0) = some (.armAddRR rd rn rm) ∧
      decodeArm (0xE0400000 ||| regAt rn 16 ||| regAt rd 12 ||| regAt rm 0) = some (.armSubRR rd rn rm)) ∧
  (∀ (rd rn rm : ArmReg) (s : State), ∃ t, exec (.armAddRR rd rn rm) s = .next t ∧
    t.armGet rd = BitVec.ofNat 32 ((s.armGet rn).toNat + (s.armGet rm).toNat) ∧ SameArmBut [rd] s t ∧
    t.armFlags = s.armFlags ∧ t.pc = s.pc + 4 ∧ ArmFrame s t) ∧
  ∀ (rd rn rm : ArmReg) (s : State), ∃ t, exec (.armSubRR rd rn rm) s = .next t ∧
    t.armGet rd = BitVec.ofInt 32 (((s.armGet rn).toNat : Int) - ((s.armGet rm).toNat : Int)) ∧ SameArmBut [rd] s t ∧
    t.armFlags = s.armFlags ∧ t.pc = s.pc + 4 ∧ ArmFrame s t

/-- R208, R212: ADDS and SUBS write N, Z, C and V besides the result; C is the carry of ADDS and NOT the borrow of SUBS. -/
def Obligations.ArmAddsAndSubsWithFlags : Prop :=
  (∀ rd rn rm : ArmReg,
    decodeArm (0xE0900000 ||| regAt rn 16 ||| regAt rd 12 ||| regAt rm 0) = some (.armAddsRR rd rn rm) ∧
      decodeArm (0xE0500000 ||| regAt rn 16 ||| regAt rd 12 ||| regAt rm 0) = some (.armSubsRR rd rn rm)) ∧
  (∀ (rd rn rm : ArmReg) (s : State),
    let a := s.armGet rn
    let b := s.armGet rm
    let res := BitVec.ofNat 32 (a.toNat + b.toNat)
    ∃ t, exec (.armAddsRR rd rn rm) s = .next t ∧
      t.armGet rd = res ∧ SameArmBut [rd] s t ∧
      (t.armFlags.N = true ↔ res.msb = true) ∧ (t.armFlags.Z = true ↔ res = 0) ∧
      (t.armFlags.C = true ↔ 2 ^ 32 ≤ a.toNat + b.toNat) ∧
      (t.armFlags.V = true ↔ a.msb = b.msb ∧ res.msb ≠ a.msb) ∧ t.pc = s.pc + 4 ∧ ArmFrame s t) ∧
  ∀ (rd rn rm : ArmReg) (s : State),
    let a := s.armGet rn
    let b := s.armGet rm
    let res := BitVec.ofInt 32 ((a.toNat : Int) - (b.toNat : Int))
    ∃ t, exec (.armSubsRR rd rn rm) s = .next t ∧
      t.armGet rd = res ∧ SameArmBut [rd] s t ∧
      (t.armFlags.N = true ↔ res.msb = true) ∧ (t.armFlags.Z = true ↔ res = 0) ∧
      (t.armFlags.C = true ↔ b.toNat ≤ a.toNat) ∧
      (t.armFlags.V = true ↔ a.msb ≠ b.msb ∧ res.msb ≠ a.msb) ∧ t.pc = s.pc + 4 ∧ ArmFrame s t

/-- R214: ARM PUSH of a register other than r13 stores it at sp - 4 and moves sp there, or raises MemoryOutOfBounds(sp - 4,
4); the words with Rt = 13 or Rt = 15 are unmatched. -/
def Obligations.ArmPush : Prop :=
  (∀ rt : ArmReg, rt ≠ armSp → decodeArm (0xE52D0004 ||| regAt rt 12) = some (.armPush rt)) ∧
  decodeArm 0xE52DD004 = none ∧ decodeArm 0xE52DF004 = none ∧
  ∀ (rt : ArmReg) (s : State), s.mem.wf → rt ≠ armSp →
    let sp1 := s.armGet armSp - 4
    (sp1.toNat + 4 ≤ s.cfg.memSize → ∃ t, exec (.armPush rt) s = .next t ∧
      HoldsWord t sp1 (s.armGet rt) ∧ t.armGet armSp = sp1 ∧ SameArmBut [armSp] s t ∧ t.armFlags = s.armFlags ∧
      t.pc = s.pc + 4 ∧ ArmStoreFrame sp1 s t) ∧
    (s.cfg.memSize < sp1.toNat + 4 → exec (.armPush rt) s = .fault (.memoryOutOfBounds sp1 4 s.pc))

/-- R216: ARM POP of a register other than r13 reads the word at sp into it and adds 4 to sp, or raises MemoryOutOfBounds(sp,
4); the words with Rt = 13 or Rt = 15 are unmatched. -/
def Obligations.ArmPop : Prop :=
  (∀ rt : ArmReg, rt ≠ armSp → decodeArm (0xE49D0004 ||| regAt rt 12) = some (.armPop rt)) ∧
  decodeArm 0xE49DD004 = none ∧ decodeArm 0xE49DF004 = none ∧
  ∀ (rt : ArmReg) (s : State), rt ≠ armSp →
    let sp0 := s.armGet armSp
    (sp0.toNat + 4 ≤ s.cfg.memSize → ∃ t, exec (.armPop rt) s = .next t ∧
      t.armGet rt = wordIn s sp0 ∧ t.armGet armSp = sp0 + 4 ∧ SameArmBut [armSp, rt] s t ∧ t.armFlags = s.armFlags ∧
      t.pc = s.pc + 4 ∧ ArmFrame s t) ∧
    (s.cfg.memSize < sp0.toNat + 4 → exec (.armPop rt) s = .fault (.memoryOutOfBounds sp0 4 s.pc))

/-- R218, R220: B goes to pc + 8 + sext_32(imm24 ∥ 0b00), a multiple of 4 whenever the pc is; BL does so too and sets lr to pc
+ 4. Neither can fault. -/
def Obligations.ArmBranches : Prop :=
  (∀ imm24 : BitVec 24, decodeArm (0xEA000000 ||| fieldAt imm24 0) = some (.armB imm24) ∧
    decodeArm (0xEB000000 ||| fieldAt imm24 0) = some (.armBL imm24)) ∧
  (∀ (imm24 : BitVec 24) (s : State),
    let offset := BitVec.ofInt 32 (4 * imm24.toInt)
    (s.pc.toNat % 4 = 0 → (s.pc + 8 + offset).toNat % 4 = 0) ∧
    (∃ t, exec (.armB imm24) s = .next t ∧ t.pc = s.pc + 8 + offset ∧ SameArmBut [] s t ∧
      t.armFlags = s.armFlags ∧ ArmFrame s t) ∧
    ∃ t, exec (.armBL imm24) s = .next t ∧ t.pc = s.pc + 8 + offset ∧ t.armGet armLr = s.pc + 4 ∧
      SameArmBut [armLr] s t ∧ t.armFlags = s.armFlags ∧ ArmFrame s t)

/-- R222: BX LR is the word 0xE12FFF1E; it goes to lr when lr is a multiple of 4 and raises MisalignedPC(pc, lr) otherwise. -/
def Obligations.ArmBxLr : Prop :=
  decodeArm 0xE12FFF1E = some .armBxLr ∧
  ∀ s : State,
    ((s.armGet armLr).toNat % 4 = 0 → ∃ t, exec .armBxLr s = .next t ∧ t.pc = s.armGet armLr ∧ SameArmBut [] s t ∧
      t.armFlags = s.armFlags ∧ ArmFrame s t) ∧
    ((s.armGet armLr).toNat % 4 ≠ 0 → exec .armBxLr s = .fault (.misalignedPC s.pc (s.armGet armLr)))

/-- R224: SVC changes nothing but the pc, whatever its number. -/
def Obligations.ArmSvcOnlyAdvances : Prop :=
  ∀ imm24 : BitVec 24, decodeArm (0xEF000000 ||| fieldAt imm24 0) = some (.armSvc imm24) ∧
    ∀ s : State, ∃ t, exec (.armSvc imm24) s = .next t ∧
      t.pc = s.pc + 4 ∧ SameArmBut [] s t ∧ t.armFlags = s.armFlags ∧ ArmFrame s t

/-! ## RISC-V

The spec supplies the RISC-V rules itself: "Every rule below rule R250 is this spec's choice" (45_riscv, 93 K16 to K19). -/

/-- R251, R252: LUI writes imm20 ∥ 0^12 and ADDI adds the sign-extended immediate, modulo 2^32; with rd = x0 nothing is
written. -/
def Obligations.RvLuiAndAddi : Prop :=
  (∀ (rd : RvReg) (imm20 : BitVec 20), decodeRiscv (0x37 ||| regAt rd 7 ||| fieldAt imm20 12) = some (.rvLui rd imm20)) ∧
  (∀ (rd rs1 : RvReg) (imm12 : BitVec 12),
    decodeRiscv (0x13 ||| regAt rd 7 ||| regAt rs1 15 ||| fieldAt imm12 20) = some (.rvAddi rd rs1 imm12)) ∧
  (∀ (rd : RvReg) (imm20 : BitVec 20) (s : State), ∃ t, exec (.rvLui rd imm20) s = .next t ∧
    t.rvGet rd = (if rd = 0 then 0 else BitVec.ofNat 32 (imm20.toNat * 2 ^ 12)) ∧ SameRvBut [rd] s t ∧
    t.pc = s.pc + 4 ∧ RvFrame s t) ∧
  ∀ (rd rs1 : RvReg) (imm12 : BitVec 12) (s : State), ∃ t, exec (.rvAddi rd rs1 imm12) s = .next t ∧
    t.rvGet rd = (if rd = 0 then 0 else BitVec.ofInt 32 ((s.rvGet rs1).toNat + imm12.toInt)) ∧ SameRvBut [rd] s t ∧
    t.pc = s.pc + 4 ∧ RvFrame s t

/-- R253, R254: ADD and SUB add and subtract modulo 2^32; with rd = x0 nothing is written. -/
def Obligations.RvAddAndSub : Prop :=
  (∀ rd rs1 rs2 : RvReg,
    decodeRiscv (0x33 ||| regAt rd 7 ||| regAt rs1 15 ||| regAt rs2 20) = some (.rvAdd rd rs1 rs2) ∧
      decodeRiscv (0x40000033 ||| regAt rd 7 ||| regAt rs1 15 ||| regAt rs2 20) = some (.rvSub rd rs1 rs2)) ∧
  ∀ (rd rs1 rs2 : RvReg) (s : State),
    (∃ t, exec (.rvAdd rd rs1 rs2) s = .next t ∧
      t.rvGet rd = (if rd = 0 then 0 else BitVec.ofNat 32 ((s.rvGet rs1).toNat + (s.rvGet rs2).toNat)) ∧
      SameRvBut [rd] s t ∧ t.pc = s.pc + 4 ∧ RvFrame s t) ∧
    ∃ t, exec (.rvSub rd rs1 rs2) s = .next t ∧
      t.rvGet rd = (if rd = 0 then 0 else BitVec.ofInt 32 (((s.rvGet rs1).toNat : Int) - ((s.rvGet rs2).toNat : Int))) ∧
      SameRvBut [rd] s t ∧ t.pc = s.pc + 4 ∧ RvFrame s t

/-- R255: LW reads the word at x[rs1] + immI, unaligned or not, into rd; with rd = x0 the word is discarded, and the access
can still raise MemoryOutOfBounds. -/
def Obligations.RvLw : Prop :=
  (∀ (rd rs1 : RvReg) (imm12 : BitVec 12),
    decodeRiscv (0x2003 ||| regAt rd 7 ||| regAt rs1 15 ||| fieldAt imm12 20) = some (.rvLw rd rs1 imm12)) ∧
  ∀ (rd rs1 : RvReg) (imm12 : BitVec 12) (s : State),
    let ea := s.rvGet rs1 + imm12.signExtend 32
    (ea.toNat + 4 ≤ s.cfg.memSize → ∃ t, exec (.rvLw rd rs1 imm12) s = .next t ∧
      t.rvGet rd = (if rd = 0 then 0 else wordIn s ea) ∧ SameRvBut [rd] s t ∧ t.pc = s.pc + 4 ∧ RvFrame s t) ∧
    (s.cfg.memSize < ea.toNat + 4 → exec (.rvLw rd rs1 imm12) s = .fault (.memoryOutOfBounds ea 4 s.pc))

/-- R256: SW stores x[rs2] at x[rs1] + immS, unaligned or not, and changes no register; or it raises MemoryOutOfBounds. -/
def Obligations.RvSw : Prop :=
  (∀ (rs2 rs1 : RvReg) (imm12 : BitVec 12),
    decodeRiscv (0x2023 ||| fieldAt (imm12.extractLsb' 0 5) 7 ||| regAt rs1 15 ||| regAt rs2 20 |||
      fieldAt (imm12.extractLsb' 5 7) 25) = some (.rvSw rs2 rs1 imm12)) ∧
  ∀ (rs2 rs1 : RvReg) (imm12 : BitVec 12) (s : State), s.mem.wf →
    let ea := s.rvGet rs1 + imm12.signExtend 32
    (ea.toNat + 4 ≤ s.cfg.memSize → ∃ t, exec (.rvSw rs2 rs1 imm12) s = .next t ∧
      HoldsWord t ea (s.rvGet rs2) ∧ SameRvBut [] s t ∧ t.pc = s.pc + 4 ∧ RvStoreFrame ea s t) ∧
    (s.cfg.memSize < ea.toNat + 4 → exec (.rvSw rs2 rs1 imm12) s = .fault (.memoryOutOfBounds ea 4 s.pc))

/-- R257: JAL goes to pc + immJ and sets rd to pc + 4 when the target is a multiple of 4; otherwise it raises MisalignedPC(pc,
target) and writes no register. -/
def Obligations.RvJal : Prop :=
  (∀ (rd : RvReg) (half : BitVec 20),
    decodeRiscv (0x6F ||| regAt rd 7 ||| fieldAt (half.extractLsb' 11 8) 12 ||| fieldAt (half.extractLsb' 10 1) 20 |||
      fieldAt (half.extractLsb' 0 10) 21 ||| fieldAt (half.extractLsb' 19 1) 31) = some (.rvJal rd half)) ∧
  ∀ (rd : RvReg) (half : BitVec 20) (s : State),
    let target := s.pc + BitVec.ofInt 32 (2 * half.toInt)
    (target.toNat % 4 = 0 → ∃ t, exec (.rvJal rd half) s = .next t ∧ t.pc = target ∧
      t.rvGet rd = (if rd = 0 then 0 else s.pc + 4) ∧ SameRvBut [rd] s t ∧ RvFrame s t) ∧
    (target.toNat % 4 ≠ 0 → exec (.rvJal rd half) s = .fault (.misalignedPC s.pc target))

/-- R258: JALR goes to x[rs1] + immI with bit 0 cleared, x[rs1] read before rd is written, and sets rd to pc + 4; with bit 1
of the target set it raises MisalignedPC(pc, target) and writes no register. -/
def Obligations.RvJalr : Prop :=
  (∀ (rd rs1 : RvReg) (imm12 : BitVec 12),
    decodeRiscv (0x67 ||| regAt rd 7 ||| regAt rs1 15 ||| fieldAt imm12 20) = some (.rvJalr rd rs1 imm12)) ∧
  ∀ (rd rs1 : RvReg) (imm12 : BitVec 12) (s : State),
    let target := (s.rvGet rs1 + imm12.signExtend 32) &&& 0xFFFFFFFE
    (target.getLsbD 1 = false → ∃ t, exec (.rvJalr rd rs1 imm12) s = .next t ∧ t.pc = target ∧
      t.rvGet rd = (if rd = 0 then 0 else s.pc + 4) ∧ SameRvBut [rd] s t ∧ RvFrame s t) ∧
    (target.getLsbD 1 = true → exec (.rvJalr rd rs1 imm12) s = .fault (.misalignedPC s.pc target))

/-- R259: ECALL is the word 0x00000073 and changes nothing but the pc. -/
def Obligations.RvEcallOnlyAdvances : Prop :=
  decodeRiscv 0x00000073 = some .rvEcall ∧
    ∀ s : State, ∃ t, exec .rvEcall s = .next t ∧ t.pc = s.pc + 4 ∧ SameRvBut [] s t ∧ RvFrame s t

/-! ## The host -/

/-- DEBUG's trace has as many entries as RUN's step count on the same input, both leave the same state and end alike, and the
last entry's after is RUN's snapshot (R352, R353). -/
def Obligations.DebugTraceMatchesRun : Prop :=
  ∀ (s : State) (code : List Byte) (d : DebugResult) (r : RunResult), s.hostDebug code = .ok d → s.hostRun code = .ok r →
    d.trace.length = r.steps ∧ d.final = r.final ∧ d.ending = r.ending ∧
      ∀ e, d.trace.getLast? = some e → e.after = r.snapshot

/-- A sequence is the iteration of successful steps: its final state is that many steps from the start, at most the ceiling;
it reports completed exactly when the final state has completed, whether or not the ceiling is reached too; it stops at the
ceiling only after STEP_LIMIT steps; and it stops early only where a step faults (R350, R351). -/
def Obligations.RunIsStepsWithinTheCeiling : Prop :=
  ∀ (left : Nat) (s : State),
    let r := continueLoop left 0 s
    Host.Core.run core r.steps s = .next r.final ∧ r.steps ≤ left ∧ r.snapshot = r.final.snapshot ∧
      (r.ending = .completed ↔ r.final.completed = true) ∧ (r.ending = .ceiling → r.steps = left) ∧
      ∀ e, r.ending = .stopped e → ∃ f, e = .fault f ∧ step r.final = .fault f

/-- R323: HOST_WRITE_MEM stores the bytes from addr upward when they fit and changes nothing else; otherwise it fails with
MemoryOutOfBounds and writes nothing. -/
def Obligations.HostWriteMemStoresAllOrNothing : Prop :=
  ∀ (s : State) (addr : Word) (bytes : List Byte), s.cfg.variant = .minimal → s.mem.wf →
    (addr.toNat + bytes.length ≤ s.cfg.memSize → ∃ t, s.hostWriteMem addr bytes = .ok t ∧
      (∀ a, t.mem.read a =
        if addr.toNat ≤ a ∧ a < addr.toNat + bytes.length then bytes.getD (a - addr.toNat) 0 else s.mem.read a) ∧
      t.mem.wf ∧ t.setMem s.mem = s) ∧
    (s.cfg.memSize < addr.toNat + bytes.length →
      ∃ pc, s.hostWriteMem addr bytes = .error (.fault (.memoryOutOfBounds addr bytes.length pc)))

/-- HOST_WRITE_REG writes a full-width general register of the active architecture by that architecture's write rule, the
RISC-V x0 discarding it, and changes neither flags, memory nor pc; any other name is refused (R322). That a name which is no
register at all is refused with the same error is the model's choice (log entry 28). -/
def Obligations.HostWriteRegWritesOneRegister : Prop :=
  ∀ (s : State) (name : String) (v : Word), s.cfg.variant = .minimal →
    (∀ r, genRegOf s.cfg.arch name = some r → ∃ t, s.hostWriteReg name v = .ok t ∧
      (∀ q, t.genGet q = if q = r ∧ r ≠ .riscv 0 then v else s.genGet q) ∧ t.x86Flags = s.x86Flags ∧
      t.armFlags = s.armFlags ∧ t.mem = s.mem ∧ t.pc = s.pc ∧ SameInputs s t) ∧
    (genRegOf s.cfg.arch name = none → s.hostWriteReg name v = .error .unsupportedOperandShape)

/-- The registry gives the instance of each of its three keys and fails with UnsupportedArchitecture for any other (R305,
R325). -/
def Obligations.RegistryKnowsThreeKeys : Prop :=
  ∀ (r : Registry) (key : String),
    r.get "x86" = .ok r.x86 ∧ r.get "arm" = .ok r.arm ∧ r.get "riscv" = .ok r.riscv ∧
      (key ≠ "x86" → key ≠ "arm" → key ≠ "riscv" → r.get key = .error (.fault (.unsupportedArchitecture key)))

/-- On an Unimplemented backend reset, step, run, debug, assemble and validate all fail with NotImplemented whatever their
input, and the registry still reports the variant (R306). -/
def Obligations.UnimplementedBackendFailsEveryCall : Prop :=
  ∀ (s : State) (code : List Byte) (text : String), s.cfg.variant = .unimplemented →
    let e := CallError.fault (.notImplemented s.cfg.arch)
    s.hostReset = .error e ∧ s.hostStep code = .error e ∧ s.hostRun code = .error e ∧ s.hostDebug code = .error e ∧
      s.hostAssemble text = .error e ∧ s.hostValidate text = .error e ∧
      ∀ (r : Registry) (key : String), r.get key = .ok s → r.capability key = .ok .unimplemented

/-! ## The assembler -/

/-- validate finds a text valid exactly when assemble produces bytes for it (R110, R123). -/
def Obligations.ValidExactlyWhenAssembled : Prop :=
  ∀ (arch : Arch) (lines : List (Nat × Line)),
    validateLines arch lines = [] ↔ ∃ bytes, assembleLines arch lines = .ok bytes

/-- R124: a supported line resolves to a well-formed instruction of its architecture and of the size pass 1 counted, and
decoding its bytes gives the same instruction. -/
def Obligations.AssembledLineDecodesBack : Prop :=
  ∀ (arch : Arch) (mnemonic : String) (ops : List (List Char)) (f : Form) (addr : Nat) (labels : Labels) (i : Instr),
    formOf arch mnemonic ops = .ok f → f.resolve addr labels = .ok i →
      i.wellFormed = true ∧ i.arch = arch ∧ i.size = f.size ∧ decodeBytes arch (encode i) = .instr i

/-- R117: the displacement the assembler computes takes the control transfer at addr to the label's address, and the ARM and
RISC-V ones exist for the offsets of the stated multiple and range, any other being DisplacementOutOfRange. -/
def Obligations.DisplacementReachesTheLabel : Prop :=
  ∀ target addr : Nat,
    x86Target (BitVec.ofNat 32 addr) (x86Displacement target addr) = BitVec.ofNat 32 target ∧
    (∀ v, armDisplacement target addr = .ok v → armTarget (BitVec.ofNat 32 addr) v = BitVec.ofNat 32 target) ∧
    (∀ h, rvDisplacement target addr = .ok h → BitVec.ofNat 32 addr + rvImmJ h = BitVec.ofNat 32 target) ∧
    (let d := (target : Int) - (addr + 8)
    if d % 4 = 0 ∧ -2 ^ 25 ≤ d ∧ d ≤ 2 ^ 25 - 4 then ∃ v, armDisplacement target addr = .ok v
    else armDisplacement target addr = .error .displacementOutOfRange) ∧
    (let d := (target : Int) - addr
    if d % 2 = 0 ∧ -2 ^ 20 ≤ d ∧ d ≤ 2 ^ 20 - 2 then ∃ h, rvDisplacement target addr = .ok h
    else rvDisplacement target addr = .error .displacementOutOfRange)
end

