-- ==== Sys2Proof/Laws/Decode.lean ====
section
/-! SUPPORT. What a table decode can give, said once: an instruction comes from a row that matches, and a row that matches alone
gives its instruction. -/

namespace Sys2Proof

/-- A decoded instruction was built by a row of the table that matches. -/
theorem decodeRows_eq_some {n : Nat} {rows : List (Row n)} {w : BitVec n} {i : Instr}
    (h : decodeRows rows w = some i) : ∃ r ∈ rows, r.hits w = true ∧ r.build w = some i := by
  obtain ⟨r, hr, hb⟩ := List.exists_of_findSome?_eq_some h
  by_cases hh : r.hits w = true
  · exact ⟨r, hr, hh, by simpa [hh] using hb⟩
  · simp [hh] at hb

/-- If only one row of a table matches, its build is the decode. -/
theorem decodeRows_of_only {n : Nat} {rows : List (Row n)} {w : BitVec n} {r : Row n} (hr : r ∈ rows)
    (hit : r.hits w = true) (only : ∀ q ∈ rows, q.hits w = true → q = r) : decodeRows rows w = r.build w := by
  unfold decodeRows
  induction rows with
  | nil => cases hr
  | cons q rest ih =>
    rw [List.findSome?_cons]
    by_cases hq : q.hits w = true
    · have : q = r := only q List.mem_cons_self hq
      subst this
      cases hb : q.build w with
      | some i => simp [hit]
      | none =>
        simp only [hit, if_true]
        rw [List.findSome?_eq_none_iff]
        intro p hp
        by_cases hp' : p.hits w = true
        · rw [only p (List.mem_cons_of_mem _ hp) hp']; simp [hit, hb]
        · simp [hp']
    · simp only [hq, Bool.false_eq_true, if_false]
      rcases List.mem_cons.mp hr with rfl | hr
      · exact absurd hit hq
      · exact ih hr fun p hp => only p (List.mem_cons_of_mem _ hp)

end Sys2Proof
end

