-- ==== Sys2Proof/Laws/State.lean ====
section
/-! SUPPORT. One lemma for each field of State under each update of Machine/Ops.lean, so that no proof unfolds a record
update. -/

namespace Sys2Proof.Machine

variable (s : State)

@[simp] theorem State.x86Set_cfg (r : X86Reg) (v : Word) : (s.x86Set r v).cfg = s.cfg := rfl
@[simp] theorem State.x86Set_code (r : X86Reg) (v : Word) : (s.x86Set r v).code = s.code := rfl
@[simp] theorem State.x86Set_pc (r : X86Reg) (v : Word) : (s.x86Set r v).pc = s.pc := rfl
@[simp] theorem State.x86Set_x86 (r : X86Reg) (v : Word) : (s.x86Set r v).x86 = s.x86.set r v := rfl
@[simp] theorem State.x86Set_x86Flags (r : X86Reg) (v : Word) : (s.x86Set r v).x86Flags = s.x86Flags := rfl
@[simp] theorem State.x86Set_arm (r : X86Reg) (v : Word) : (s.x86Set r v).arm = s.arm := rfl
@[simp] theorem State.x86Set_armFlags (r : X86Reg) (v : Word) : (s.x86Set r v).armFlags = s.armFlags := rfl
@[simp] theorem State.x86Set_riscv (r : X86Reg) (v : Word) : (s.x86Set r v).riscv = s.riscv := rfl
@[simp] theorem State.x86Set_mem (r : X86Reg) (v : Word) : (s.x86Set r v).mem = s.mem := rfl

@[simp] theorem State.armSet_cfg (r : ArmReg) (v : Word) : (s.armSet r v).cfg = s.cfg := rfl
@[simp] theorem State.armSet_code (r : ArmReg) (v : Word) : (s.armSet r v).code = s.code := rfl
@[simp] theorem State.armSet_pc (r : ArmReg) (v : Word) : (s.armSet r v).pc = s.pc := rfl
@[simp] theorem State.armSet_x86 (r : ArmReg) (v : Word) : (s.armSet r v).x86 = s.x86 := rfl
@[simp] theorem State.armSet_x86Flags (r : ArmReg) (v : Word) : (s.armSet r v).x86Flags = s.x86Flags := rfl
@[simp] theorem State.armSet_arm (r : ArmReg) (v : Word) : (s.armSet r v).arm = s.arm.set r v := rfl
@[simp] theorem State.armSet_armFlags (r : ArmReg) (v : Word) : (s.armSet r v).armFlags = s.armFlags := rfl
@[simp] theorem State.armSet_riscv (r : ArmReg) (v : Word) : (s.armSet r v).riscv = s.riscv := rfl
@[simp] theorem State.armSet_mem (r : ArmReg) (v : Word) : (s.armSet r v).mem = s.mem := rfl

@[simp] theorem State.rvSet_cfg (r : RvReg) (v : Word) : (s.rvSet r v).cfg = s.cfg := rfl
@[simp] theorem State.rvSet_code (r : RvReg) (v : Word) : (s.rvSet r v).code = s.code := rfl
@[simp] theorem State.rvSet_pc (r : RvReg) (v : Word) : (s.rvSet r v).pc = s.pc := rfl
@[simp] theorem State.rvSet_x86 (r : RvReg) (v : Word) : (s.rvSet r v).x86 = s.x86 := rfl
@[simp] theorem State.rvSet_x86Flags (r : RvReg) (v : Word) : (s.rvSet r v).x86Flags = s.x86Flags := rfl
@[simp] theorem State.rvSet_arm (r : RvReg) (v : Word) : (s.rvSet r v).arm = s.arm := rfl
@[simp] theorem State.rvSet_armFlags (r : RvReg) (v : Word) : (s.rvSet r v).armFlags = s.armFlags := rfl
@[simp] theorem State.rvSet_riscv (r : RvReg) (v : Word) : (s.rvSet r v).riscv = if r = 0 then s.riscv else s.riscv.set r v := rfl
@[simp] theorem State.rvSet_mem (r : RvReg) (v : Word) : (s.rvSet r v).mem = s.mem := rfl

@[simp] theorem State.setX86Flags_cfg (f : X86Flags) : (s.setX86Flags f).cfg = s.cfg := rfl
@[simp] theorem State.setX86Flags_code (f : X86Flags) : (s.setX86Flags f).code = s.code := rfl
@[simp] theorem State.setX86Flags_pc (f : X86Flags) : (s.setX86Flags f).pc = s.pc := rfl
@[simp] theorem State.setX86Flags_x86 (f : X86Flags) : (s.setX86Flags f).x86 = s.x86 := rfl
@[simp] theorem State.setX86Flags_x86Flags (f : X86Flags) : (s.setX86Flags f).x86Flags = f := rfl
@[simp] theorem State.setX86Flags_arm (f : X86Flags) : (s.setX86Flags f).arm = s.arm := rfl
@[simp] theorem State.setX86Flags_armFlags (f : X86Flags) : (s.setX86Flags f).armFlags = s.armFlags := rfl
@[simp] theorem State.setX86Flags_riscv (f : X86Flags) : (s.setX86Flags f).riscv = s.riscv := rfl
@[simp] theorem State.setX86Flags_mem (f : X86Flags) : (s.setX86Flags f).mem = s.mem := rfl

@[simp] theorem State.setArmFlags_cfg (f : ArmFlags) : (s.setArmFlags f).cfg = s.cfg := rfl
@[simp] theorem State.setArmFlags_code (f : ArmFlags) : (s.setArmFlags f).code = s.code := rfl
@[simp] theorem State.setArmFlags_pc (f : ArmFlags) : (s.setArmFlags f).pc = s.pc := rfl
@[simp] theorem State.setArmFlags_x86 (f : ArmFlags) : (s.setArmFlags f).x86 = s.x86 := rfl
@[simp] theorem State.setArmFlags_x86Flags (f : ArmFlags) : (s.setArmFlags f).x86Flags = s.x86Flags := rfl
@[simp] theorem State.setArmFlags_arm (f : ArmFlags) : (s.setArmFlags f).arm = s.arm := rfl
@[simp] theorem State.setArmFlags_armFlags (f : ArmFlags) : (s.setArmFlags f).armFlags = f := rfl
@[simp] theorem State.setArmFlags_riscv (f : ArmFlags) : (s.setArmFlags f).riscv = s.riscv := rfl
@[simp] theorem State.setArmFlags_mem (f : ArmFlags) : (s.setArmFlags f).mem = s.mem := rfl

@[simp] theorem State.setMem_cfg (m : Memory) : (s.setMem m).cfg = s.cfg := rfl
@[simp] theorem State.setMem_code (m : Memory) : (s.setMem m).code = s.code := rfl
@[simp] theorem State.setMem_pc (m : Memory) : (s.setMem m).pc = s.pc := rfl
@[simp] theorem State.setMem_x86 (m : Memory) : (s.setMem m).x86 = s.x86 := rfl
@[simp] theorem State.setMem_x86Flags (m : Memory) : (s.setMem m).x86Flags = s.x86Flags := rfl
@[simp] theorem State.setMem_arm (m : Memory) : (s.setMem m).arm = s.arm := rfl
@[simp] theorem State.setMem_armFlags (m : Memory) : (s.setMem m).armFlags = s.armFlags := rfl
@[simp] theorem State.setMem_riscv (m : Memory) : (s.setMem m).riscv = s.riscv := rfl
@[simp] theorem State.setMem_mem (m : Memory) : (s.setMem m).mem = m := rfl

@[simp] theorem State.jump_cfg (a : Word) : (s.jump a).cfg = s.cfg := rfl
@[simp] theorem State.jump_code (a : Word) : (s.jump a).code = s.code := rfl
@[simp] theorem State.jump_pc (a : Word) : (s.jump a).pc = a := rfl
@[simp] theorem State.jump_x86 (a : Word) : (s.jump a).x86 = s.x86 := rfl
@[simp] theorem State.jump_x86Flags (a : Word) : (s.jump a).x86Flags = s.x86Flags := rfl
@[simp] theorem State.jump_arm (a : Word) : (s.jump a).arm = s.arm := rfl
@[simp] theorem State.jump_armFlags (a : Word) : (s.jump a).armFlags = s.armFlags := rfl
@[simp] theorem State.jump_riscv (a : Word) : (s.jump a).riscv = s.riscv := rfl
@[simp] theorem State.jump_mem (a : Word) : (s.jump a).mem = s.mem := rfl

@[simp] theorem State.advance_cfg (n : Word) : (s.advance n).cfg = s.cfg := rfl
@[simp] theorem State.advance_code (n : Word) : (s.advance n).code = s.code := rfl
@[simp] theorem State.advance_pc (n : Word) : (s.advance n).pc = s.pc + n := rfl
@[simp] theorem State.advance_x86 (n : Word) : (s.advance n).x86 = s.x86 := rfl
@[simp] theorem State.advance_x86Flags (n : Word) : (s.advance n).x86Flags = s.x86Flags := rfl
@[simp] theorem State.advance_arm (n : Word) : (s.advance n).arm = s.arm := rfl
@[simp] theorem State.advance_armFlags (n : Word) : (s.advance n).armFlags = s.armFlags := rfl
@[simp] theorem State.advance_riscv (n : Word) : (s.advance n).riscv = s.riscv := rfl
@[simp] theorem State.advance_mem (n : Word) : (s.advance n).mem = s.mem := rfl

end Sys2Proof.Machine
end

