-- ==== Sys2Proof/Laws/Memory.lean ====
section
/-! SUPPORT. Data memory: a read after a write, and that every memory operation keeps the canonical form and the bound. -/

namespace Sys2Proof.Machine

/-! ## One byte -/

/-- In a memory whose addresses all lie above a, a reads as the unlisted byte. -/
theorem read_of_all_above {m : Memory} {a : Nat} (h : ∀ c ∈ m, a < c.1) : m.read a = Memory.unlisted := by
  induction m with
  | nil => rfl
  | cons c rest ih =>
    have hc : a ≠ c.1 := Nat.ne_of_lt (h c (by simp))
    simp [Memory.read, hc, ih fun d hd => h d (by simp [hd])]

/-- A read after a write gives the byte written at its address and the old byte elsewhere. -/
theorem read_write {m : Memory} (h : m.wf) (a b : Nat) (v : Byte) :
    (m.write a v).read b = if b = a then v else m.read b := by
  obtain ⟨hp, -⟩ := h
  induction m with
  | nil =>
    by_cases hv : v = Memory.unlisted
    · by_cases hb : b = a <;> simp [Memory.write, Memory.read, hv, hb]
    · simp [Memory.write, Memory.read, hv]
  | cons c rest ih =>
    obtain ⟨hc, hr⟩ := List.pairwise_cons.mp hp
    have above : ∀ x, x ≤ c.1 → Memory.read rest x = Memory.unlisted := fun x hx =>
      read_of_all_above fun d hd => Nat.lt_of_le_of_lt hx (hc d hd)
    obtain ⟨k, w⟩ := c
    simp only [Memory.write]
    by_cases hlt : a < k
    · have hne : a ≠ k := Nat.ne_of_lt hlt
      have hra := above a (Nat.le_of_lt hlt)
      by_cases hv : v = Memory.unlisted <;> by_cases hb : b = a
      · subst hb; simp [hlt, hv, Memory.read, hne, hra]
      · simp [hlt, hv, hb]
      · simp [hlt, hv, hb, Memory.read]
      · simp [hlt, hv, hb, Memory.read]
    · by_cases heq : a = k
      · subst heq
        have hra := above a (Nat.le_refl a)
        by_cases hv : v = Memory.unlisted <;> by_cases hb : b = a
        · subst hb; simp [hv, hra]
        · simp [hv, hb, Memory.read]
        · simp [hv, hb, Memory.read]
        · simp [hv, hb, Memory.read]
      · have hka : k ≠ a := fun e => heq e.symm
        by_cases hbk : b = k
        · subst hbk; simp [hlt, heq, Memory.read, hka]
        · simp [hlt, heq, Memory.read, hbk, ih hr]

/-- Every entry after a write is the byte written or an old entry. -/
theorem mem_write {m : Memory} {a : Nat} {v : Byte} {c : Host.Cell} (h : c ∈ m.write a v) :
    (c = (a, v) ∧ v ≠ Memory.unlisted) ∨ c ∈ m := by
  induction m with
  | nil =>
    simp only [Memory.write] at h
    split at h
    · simp at h
    · exact .inl ⟨by simpa using h, ‹_›⟩
  | cons d rest ih =>
    simp only [Memory.write] at h
    split at h
    · split at h
      · exact .inr h
      · rcases List.mem_cons.mp h with h | h
        · exact .inl ⟨h, ‹_›⟩
        · exact .inr h
    · split at h
      · split at h
        · exact .inr (List.mem_cons_of_mem _ h)
        · rcases List.mem_cons.mp h with h | h
          · exact .inl ⟨h, ‹_›⟩
          · exact .inr (List.mem_cons_of_mem _ h)
      · rcases List.mem_cons.mp h with h | h
        · exact .inr (h ▸ List.mem_cons_self)
        · rcases ih h with h | h
          · exact .inl h
          · exact .inr (List.mem_cons_of_mem _ h)

/-- A byte write keeps the canonical form. -/
theorem write_wf {m : Memory} (h : m.wf) (a : Nat) (v : Byte) : (m.write a v).wf := by
  refine ⟨?_, ?_⟩
  · obtain ⟨hp, -⟩ := h
    induction m with
    | nil => simp only [Memory.write]; split <;> simp
    | cons c rest ih =>
      obtain ⟨hc, hr⟩ := List.pairwise_cons.mp hp
      obtain ⟨k, w⟩ := c
      simp only [Memory.write]
      split
      · rename_i hlt
        split
        · exact hp
        · refine List.pairwise_cons.mpr ⟨?_, hp⟩
          intro d hd
          rcases List.mem_cons.mp hd with rfl | hd
          · exact hlt
          · exact Nat.lt_trans hlt (hc d hd)
      · split
        · rename_i heq
          split
          · exact hr
          · subst heq
            exact List.pairwise_cons.mpr ⟨hc, hr⟩
        · refine List.pairwise_cons.mpr ⟨?_, ih hr⟩
          intro d hd
          rcases mem_write hd with ⟨rfl, -⟩ | hd
          · simp only; omega
          · exact hc d hd
  · intro c hc
    rcases mem_write hc with ⟨rfl, hv⟩ | hc
    · exact hv
    · exact h.2 c hc

/-- A byte write below a bound keeps the bound. -/
theorem write_below {m : Memory} {n : Nat} (h : m.below n) {a : Nat} (ha : a < n) (v : Byte) :
    (m.write a v).below n := by
  intro c hc
  rcases mem_write hc with ⟨rfl, -⟩ | hc
  · exact ha
  · exact h c hc

/-! ## Words and byte lists -/

/-- A word write keeps the canonical form. -/
theorem writeWord_wf {m : Memory} (h : m.wf) (a : Nat) (v : Word) : (m.writeWord a v).wf :=
  write_wf (write_wf (write_wf (write_wf h _ _) _ _) _ _) _ _

/-- A word write below a bound keeps the bound. -/
theorem writeWord_below {m : Memory} {n : Nat} (h : m.below n) {a : Nat} (ha : a + 4 ≤ n) (v : Word) :
    (m.writeWord a v).below n :=
  write_below (write_below (write_below (write_below h (by omega) _) (by omega) _) (by omega) _) (by omega) _

/-- Each byte after a word write: the bytes of the word at its four addresses, the old byte elsewhere. -/
theorem read_writeWord {m : Memory} (h : m.wf) (a b : Nat) (v : Word) :
    (m.writeWord a v).read b =
      if b = a + 3 then v.extractLsb' 24 8
      else if b = a + 2 then v.extractLsb' 16 8
      else if b = a + 1 then v.extractLsb' 8 8
      else if b = a then v.extractLsb' 0 8
      else m.read b := by
  have h0 := write_wf h a (v.extractLsb' 0 8)
  have h1 := write_wf h0 (a + 1) (v.extractLsb' 8 8)
  have h2 := write_wf h1 (a + 2) (v.extractLsb' 16 8)
  rw [Memory.writeWord, read_write h2, read_write h1, read_write h0, read_write h]

/-- A byte-list write keeps the canonical form. -/
theorem writeBytes_wf {m : Memory} (h : m.wf) (a : Nat) (bytes : List Byte) : (m.writeBytes a bytes).wf := by
  induction bytes generalizing m a with
  | nil => exact h
  | cons v rest ih => exact ih (write_wf h a v) (a + 1)

/-- A byte-list write below a bound keeps the bound. -/
theorem writeBytes_below {m : Memory} {n : Nat} (h : m.below n) {a : Nat} {bytes : List Byte}
    (ha : a + bytes.length ≤ n) : (m.writeBytes a bytes).below n := by
  induction bytes generalizing m a with
  | nil => exact h
  | cons v rest ih =>
    simp only [List.length_cons] at ha
    exact ih (write_below h (by omega) v) (by omega)

/-- The memory after reset is in canonical form. -/
theorem construct_mem_wf (cfg : Config) : (State.construct cfg).mem.wf := ⟨List.Pairwise.nil, nofun⟩

/-! ## The accesses of the machine -/

/-- A read answers a value exactly when it is in bounds, and then the little-endian word. -/
theorem memRead_eq_ok {s : State} {addr v : Word} :
    s.memRead addr = .ok v ↔ addr.toNat + 4 ≤ s.cfg.memSize ∧ s.mem.readWord addr.toNat = v := by
  by_cases h : addr.toNat + 4 ≤ s.cfg.memSize <;> simp [State.memRead, State.inBounds, h]

/-- A read that fails raises MemoryOutOfBounds and is out of bounds. -/
theorem memRead_eq_error {s : State} {addr : Word} {f : Fault} :
    s.memRead addr = .error f ↔ s.cfg.memSize < addr.toNat + 4 ∧ .memoryOutOfBounds addr 4 s.pc = f := by
  rcases Nat.lt_or_ge s.cfg.memSize (addr.toNat + 4) with h | h
  · simp [State.memRead, State.inBounds, State.outOfBounds, h, Nat.not_le.2 h]
  · simp [State.memRead, State.inBounds, h, Nat.not_lt.2 h]

/-- A write answers a state exactly when it is in bounds, and then only memory changes. -/
theorem memWrite_eq_ok {s t : State} {addr v : Word} :
    s.memWrite addr v = .ok t ↔ addr.toNat + 4 ≤ s.cfg.memSize ∧ s.setMem (s.mem.writeWord addr.toNat v) = t := by
  by_cases h : addr.toNat + 4 ≤ s.cfg.memSize <;> simp [State.memWrite, State.inBounds, h]

/-- A write that fails raises MemoryOutOfBounds and is out of bounds. -/
theorem memWrite_eq_error {s : State} {addr v : Word} {f : Fault} :
    s.memWrite addr v = .error f ↔ s.cfg.memSize < addr.toNat + 4 ∧ .memoryOutOfBounds addr 4 s.pc = f := by
  rcases Nat.lt_or_ge s.cfg.memSize (addr.toNat + 4) with h | h
  · simp [State.memWrite, State.inBounds, State.outOfBounds, h, Nat.not_le.2 h]
  · simp [State.memWrite, State.inBounds, h, Nat.not_lt.2 h]

end Sys2Proof.Machine
end

