-- ==== Sys2Proof/Laws/Outcome.lean ====
section
/-! SUPPORT. What the shared operations of the meanings can do, said once each, and what a step can do. -/

namespace Sys2Proof.Machine

@[simp] theorem attempt_ok {α : Type} (a : α) (k : α → StepOutcome) : attempt (.ok a) k = k a := rfl
@[simp] theorem attempt_error {α : Type} (f : Fault) (k : α → StepOutcome) : attempt (.error f) k = .fault f := rfl

/-- An access that goes on to a next state was answered. -/
theorem attempt_eq_next {α : Type} {r : Except Fault α} {k : α → StepOutcome} {t : State} :
    attempt r k = .next t ↔ ∃ a, r = .ok a ∧ k a = .next t := by
  cases r <;> simp [attempt, raise]

/-- A fault comes from the access or from what follows it. -/
theorem attempt_eq_fault {α : Type} {r : Except Fault α} {k : α → StepOutcome} {f : Fault} :
    attempt r k = .fault f ↔ r = .error f ∨ ∃ a, r = .ok a ∧ k a = .fault f := by
  cases r <;> simp [attempt, raise]

/-- A refusal can only come from what follows the access. -/
theorem attempt_eq_refused {α : Type} {r : Except Fault α} {k : α → StepOutcome} {e : Refusal} :
    attempt r k = .refused e ↔ ∃ a, r = .ok a ∧ k a = .refused e := by
  cases r <;> simp [attempt, raise]

/-- A checked transfer goes on exactly when the target is a multiple of 4. -/
theorem transferAligned_eq_next {s t done : State} {target : Word} :
    transferAligned s target done = .next t ↔ aligned4 target = true ∧ done.jump target = t := by
  by_cases h : aligned4 target = true <;> simp [transferAligned, raise, h]

/-- A checked transfer that fails raises MisalignedPC. -/
theorem transferAligned_eq_fault {s done : State} {target : Word} {f : Fault} :
    transferAligned s target done = .fault f ↔ aligned4 target = false ∧ .misalignedPC s.pc target = f := by
  by_cases h : aligned4 target = true <;> simp [transferAligned, raise, h]

theorem transferAligned_ne_refused {s done : State} {target : Word} {e : Refusal} :
    transferAligned s target done ≠ .refused e := by
  by_cases h : aligned4 target = true <;> simp [transferAligned, raise, h]

/-- A push is answered exactly when its slot is in bounds: the word is stored there and esp moved there. -/
theorem x86PushWord_eq_ok {s t : State} {v : Word} :
    s.x86PushWord v = .ok t ↔
      s.x86PushSlot.toNat + 4 ≤ s.cfg.memSize ∧
        (s.setMem (s.mem.writeWord s.x86PushSlot.toNat v)).x86Set esp s.x86PushSlot = t := by
  by_cases h : s.x86PushSlot.toNat + 4 ≤ s.cfg.memSize <;>
    simp [State.x86PushWord, State.memWrite, State.inBounds, h]

/-- A push that fails raises MemoryOutOfBounds at its slot. -/
theorem x86PushWord_eq_error {s : State} {v : Word} {f : Fault} :
    s.x86PushWord v = .error f ↔
      s.cfg.memSize < s.x86PushSlot.toNat + 4 ∧ .memoryOutOfBounds s.x86PushSlot 4 s.pc = f := by
  rcases Nat.lt_or_ge s.cfg.memSize (s.x86PushSlot.toNat + 4) with h | h
  · simp [State.x86PushWord, State.memWrite, State.inBounds, State.outOfBounds, h, Nat.not_le.2 h]
  · simp [State.x86PushWord, State.memWrite, State.inBounds, h, Nat.not_lt.2 h]

/-- The unmatched record goes on exactly without STRICT_DECODE, past UNIT bytes. -/
theorem execUnmatched_eq_next {opcode : Word} {s t : State} :
    execUnmatched opcode s = .next t ↔
      s.cfg.strictDecode = false ∧ s.advance (BitVec.ofNat 32 s.cfg.arch.unit) = t := by
  cases h : s.cfg.strictDecode <;> simp [execUnmatched, raise, h]

/-- What a step that answers a next state did: nothing past the end of the code, the unmatched no-op, or one instruction. -/
theorem step_cases {s t : State} (h : step s = .next t) :
    (s.select = .finished ∧ t = s) ∨
      (∃ opcode, s.select = .unmatched opcode ∧ execUnmatched opcode s = .next t) ∨
        ∃ i, s.select = .run i ∧ exec i s = .next t := by
  unfold step at h
  cases hsel : s.select with
  | unimplemented => simp [hsel, execUnimplemented, raise] at h
  | finished => simp only [hsel, Host.Outcome.next.injEq] at h; exact .inl ⟨rfl, h.symm⟩
  | unmatched opcode => exact .inr (.inl ⟨opcode, rfl, by simpa [hsel] using h⟩)
  | run i => exact .inr (.inr ⟨i, rfl, by simpa [hsel] using h⟩)

/-- A selected instruction is the decode at the pc of a present backend's unfinished program. -/
theorem select_eq_run {s : State} {i : Instr} :
    s.select = .run i ↔
      s.cfg.variant = .minimal ∧ s.completed = false ∧ decode s.cfg.arch s.code s.pc = .instr i := by
  unfold State.select
  cases s.cfg.variant <;> cases s.completed <;> cases decode s.cfg.arch s.code s.pc <;> simp

end Sys2Proof.Machine
end

