-- ==== Sys2Proof/Laws/PerInstr.lean ====
section
/-! SUPPORT. Facts about every instruction as syntax, one lemma for each constructor. -/

namespace Sys2Proof.Laws

/-- An instruction encodes to as many bytes as its size says, and the size is one its architecture has: 1, 2 or 5 on x86, 4 on
ARM and RISC-V (spec 30_encoding R88, R104). -/
def EncodedLength.Statement (i : Instr) : Prop :=
  (encode i).length = i.size ∧
    match i.arch with
    | .x86 => i.size = 1 ∨ i.size = 2 ∨ i.size = 5
    | .arm | .riscv => i.size = 4

namespace EncodedLength

theorem x86MovRI (r : X86Reg) (imm32 : Word) : Statement (.x86MovRI r imm32) := ⟨rfl, Or.inr (Or.inr rfl)⟩
theorem x86MovRR (d s : X86Reg) : Statement (.x86MovRR d s) := ⟨rfl, Or.inr (Or.inl rfl)⟩
theorem x86AddRR (d s : X86Reg) : Statement (.x86AddRR d s) := ⟨rfl, Or.inr (Or.inl rfl)⟩
theorem x86SubRR (d s : X86Reg) : Statement (.x86SubRR d s) := ⟨rfl, Or.inr (Or.inl rfl)⟩
theorem x86Push (r : X86Reg) : Statement (.x86Push r) := ⟨rfl, Or.inl rfl⟩
theorem x86Pop (r : X86Reg) : Statement (.x86Pop r) := ⟨rfl, Or.inl rfl⟩
theorem x86Ret : Statement (.x86Ret) := ⟨rfl, Or.inl rfl⟩
theorem x86Int (imm8 : Byte) : Statement (.x86Int imm8) := ⟨rfl, Or.inr (Or.inl rfl)⟩
theorem x86Jmp (disp32 : Word) : Statement (.x86Jmp disp32) := ⟨rfl, Or.inr (Or.inr rfl)⟩
theorem x86Call (disp32 : Word) : Statement (.x86Call disp32) := ⟨rfl, Or.inr (Or.inr rfl)⟩
theorem x86Nop : Statement (.x86Nop) := ⟨rfl, Or.inl rfl⟩
theorem armMovRR (rd rm : ArmReg) : Statement (.armMovRR rd rm) := ⟨rfl, rfl⟩
theorem armMovRI (rd : ArmReg) (rot : BitVec 4) (imm8 : Byte) : Statement (.armMovRI rd rot imm8) := ⟨rfl, rfl⟩
theorem armAddRR (rd rn rm : ArmReg) : Statement (.armAddRR rd rn rm) := ⟨rfl, rfl⟩
theorem armAddsRR (rd rn rm : ArmReg) : Statement (.armAddsRR rd rn rm) := ⟨rfl, rfl⟩
theorem armSubRR (rd rn rm : ArmReg) : Statement (.armSubRR rd rn rm) := ⟨rfl, rfl⟩
theorem armSubsRR (rd rn rm : ArmReg) : Statement (.armSubsRR rd rn rm) := ⟨rfl, rfl⟩
theorem armPush (rt : ArmReg) : Statement (.armPush rt) := ⟨rfl, rfl⟩
theorem armPop (rt : ArmReg) : Statement (.armPop rt) := ⟨rfl, rfl⟩
theorem armB (imm24 : BitVec 24) : Statement (.armB imm24) := ⟨rfl, rfl⟩
theorem armBL (imm24 : BitVec 24) : Statement (.armBL imm24) := ⟨rfl, rfl⟩
theorem armBxLr : Statement (.armBxLr) := ⟨rfl, rfl⟩
theorem armSvc (imm24 : BitVec 24) : Statement (.armSvc imm24) := ⟨rfl, rfl⟩
theorem rvLui (rd : RvReg) (imm20 : BitVec 20) : Statement (.rvLui rd imm20) := ⟨rfl, rfl⟩
theorem rvAddi (rd rs1 : RvReg) (imm12 : BitVec 12) : Statement (.rvAddi rd rs1 imm12) := ⟨rfl, rfl⟩
theorem rvAdd (rd rs1 rs2 : RvReg) : Statement (.rvAdd rd rs1 rs2) := ⟨rfl, rfl⟩
theorem rvSub (rd rs1 rs2 : RvReg) : Statement (.rvSub rd rs1 rs2) := ⟨rfl, rfl⟩
theorem rvLw (rd rs1 : RvReg) (imm12 : BitVec 12) : Statement (.rvLw rd rs1 imm12) := ⟨rfl, rfl⟩
theorem rvSw (rs2 rs1 : RvReg) (imm12 : BitVec 12) : Statement (.rvSw rs2 rs1 imm12) := ⟨rfl, rfl⟩
theorem rvJal (rd : RvReg) (half : BitVec 20) : Statement (.rvJal rd half) := ⟨rfl, rfl⟩
theorem rvJalr (rd rs1 : RvReg) (imm12 : BitVec 12) : Statement (.rvJalr rd rs1 imm12) := ⟨rfl, rfl⟩
theorem rvEcall : Statement (.rvEcall) := ⟨rfl, rfl⟩

end EncodedLength

end Sys2Proof.Laws
end

