-- ==== Sys2Proof/Laws/Registers.lean ====
section
/-! SUPPORT. What a register read gives after each update: the register files are independent of one another, and a read
after a write gives the value written, or for the RISC-V x0 always 0. -/

namespace Sys2Proof.Machine

variable (s : State)

/-- A cell of a register file after a write. -/
theorem regs_get_set {n : Nat} (v : Vector Word n) (r q : Fin n) (x : Word) :
    (v.set r x)[q] = if q = r then x else v[q] := by
  simp [Vector.getElem_set, Fin.ext_iff, eq_comm]

/-! ## x86 -/

theorem x86Get_x86Set (r q : X86Reg) (v : Word) : (s.x86Set r v).x86Get q = if q = r then v else s.x86Get q :=
  regs_get_set s.x86 r q v

@[simp] theorem x86Get_x86Set_self (r : X86Reg) (v : Word) : (s.x86Set r v).x86Get r = v := by simp [x86Get_x86Set]

theorem x86Get_x86Set_ne {r q : X86Reg} (h : q ≠ r) (v : Word) : (s.x86Set r v).x86Get q = s.x86Get q := by
  simp [x86Get_x86Set, h]

@[simp] theorem x86Get_armSet (r : ArmReg) (v : Word) (q : X86Reg) : (s.armSet r v).x86Get q = s.x86Get q := rfl
@[simp] theorem x86Get_rvSet (r : RvReg) (v : Word) (q : X86Reg) : (s.rvSet r v).x86Get q = s.x86Get q := rfl
@[simp] theorem x86Get_setX86Flags (f : X86Flags) (q : X86Reg) : (s.setX86Flags f).x86Get q = s.x86Get q := rfl
@[simp] theorem x86Get_setArmFlags (f : ArmFlags) (q : X86Reg) : (s.setArmFlags f).x86Get q = s.x86Get q := rfl
@[simp] theorem x86Get_setMem (m : Memory) (q : X86Reg) : (s.setMem m).x86Get q = s.x86Get q := rfl
@[simp] theorem x86Get_jump (a : Word) (q : X86Reg) : (s.jump a).x86Get q = s.x86Get q := rfl
@[simp] theorem x86Get_advance (n : Word) (q : X86Reg) : (s.advance n).x86Get q = s.x86Get q := rfl

/-! ## ARM -/

theorem armGet_armSet (r q : ArmReg) (v : Word) : (s.armSet r v).armGet q = if q = r then v else s.armGet q :=
  regs_get_set s.arm r q v

@[simp] theorem armGet_armSet_self (r : ArmReg) (v : Word) : (s.armSet r v).armGet r = v := by simp [armGet_armSet]

theorem armGet_armSet_ne {r q : ArmReg} (h : q ≠ r) (v : Word) : (s.armSet r v).armGet q = s.armGet q := by
  simp [armGet_armSet, h]

@[simp] theorem armGet_x86Set (r : X86Reg) (v : Word) (q : ArmReg) : (s.x86Set r v).armGet q = s.armGet q := rfl
@[simp] theorem armGet_rvSet (r : RvReg) (v : Word) (q : ArmReg) : (s.rvSet r v).armGet q = s.armGet q := rfl
@[simp] theorem armGet_setX86Flags (f : X86Flags) (q : ArmReg) : (s.setX86Flags f).armGet q = s.armGet q := rfl
@[simp] theorem armGet_setArmFlags (f : ArmFlags) (q : ArmReg) : (s.setArmFlags f).armGet q = s.armGet q := rfl
@[simp] theorem armGet_setMem (m : Memory) (q : ArmReg) : (s.setMem m).armGet q = s.armGet q := rfl
@[simp] theorem armGet_jump (a : Word) (q : ArmReg) : (s.jump a).armGet q = s.armGet q := rfl
@[simp] theorem armGet_advance (n : Word) (q : ArmReg) : (s.advance n).armGet q = s.armGet q := rfl

/-! ## RISC-V -/

theorem rvGet_rvSet (r q : RvReg) (v : Word) :
    (s.rvSet r v).rvGet q = if q = r ∧ r ≠ 0 then v else s.rvGet q := by
  unfold State.rvGet State.rvSet
  by_cases hr : r = 0
  · simp [hr]
  · by_cases hq : q = 0
    · subst hq; simp [Ne.symm hr]
    · simp only [if_neg hr, if_neg hq, regs_get_set]; simp [hr]

theorem rvGet_rvSet_self {r : RvReg} (h : r ≠ 0) (v : Word) : (s.rvSet r v).rvGet r = v := by simp [rvGet_rvSet, h]

theorem rvGet_rvSet_ne {r q : RvReg} (h : q ≠ r) (v : Word) : (s.rvSet r v).rvGet q = s.rvGet q := by
  simp [rvGet_rvSet, h]

@[simp] theorem rvGet_x86Set (r : X86Reg) (v : Word) (q : RvReg) : (s.x86Set r v).rvGet q = s.rvGet q := rfl
@[simp] theorem rvGet_armSet (r : ArmReg) (v : Word) (q : RvReg) : (s.armSet r v).rvGet q = s.rvGet q := rfl
@[simp] theorem rvGet_setX86Flags (f : X86Flags) (q : RvReg) : (s.setX86Flags f).rvGet q = s.rvGet q := rfl
@[simp] theorem rvGet_setArmFlags (f : ArmFlags) (q : RvReg) : (s.setArmFlags f).rvGet q = s.rvGet q := rfl
@[simp] theorem rvGet_setMem (m : Memory) (q : RvReg) : (s.setMem m).rvGet q = s.rvGet q := rfl
@[simp] theorem rvGet_jump (a : Word) (q : RvReg) : (s.jump a).rvGet q = s.rvGet q := rfl
@[simp] theorem rvGet_advance (n : Word) (q : RvReg) : (s.advance n).rvGet q = s.rvGet q := rfl

end Sys2Proof.Machine
end

