-- ==== Sys2Proof/Tests/Slice0.lean ====
section
/-! SUPPORT. Tests of the model on small states, by decide. The expected results are those of spec/95_test_vectors.md or are
worked out by hand from the rule named; the witness_ theorems show that the hypotheses of the statements can be met. -/

namespace Sys2Proof.Tests

open Sys2Proof.Machine

/-! ## Helpers -/

/-- A new instance of an architecture with a code buffer. -/
def fresh (arch : Arch) (code : List Byte) : State := { State.construct (Config.default arch) with code := code }

/-- The same under STRICT_DECODE. -/
def freshStrict (arch : Arch) (code : List Byte) : State :=
  { State.construct { Config.default arch with strictDecode := true } with code := code }

/-- The same on an Unimplemented backend. -/
def freshAbsent (arch : Arch) : State :=
  State.construct { Config.default arch with backendArm := .unimplemented, backendRiscv := .unimplemented }

/-- The code bytes of a little-endian instruction word. -/
def word (w : Word) : List Byte := leBytes w

/-- A word stored in data memory. -/
def poke (s : State) (a : Nat) (v : Word) : State := s.setMem (s.mem.writeWord a v)

/-- A projection of the next state. -/
def after {α : Type} (o : StepOutcome) (f : State → α) : Option α :=
  match o with
  | .next t => some (f t)
  | .fault _ => none
  | .refused _ => none

/-- The fault a step answers. -/
def faultOf (o : StepOutcome) : Option Fault :=
  match o with
  | .next _ => none
  | .fault f => some f
  | .refused _ => none

/-- Whether a step answers a next state. -/
def goesOn (o : StepOutcome) : Bool := (after o fun _ => ()).isSome

/-- The error of a call. -/
def errorOf {ε α : Type} (r : Except ε α) : Option ε :=
  match r with
  | .ok _ => none
  | .error e => some e

/-- A projection of a call's result. -/
def resultOf {ε α β : Type} (r : Except ε α) (f : α → β) : Option β :=
  match r with
  | .ok a => some (f a)
  | .error _ => none

/-! ## Well-formedness: ARM PUSH and POP of r13 have no encoding (R97, R201) -/

theorem test_wellFormed_push_sp : (Instr.armPush 13).wellFormed = false := by decide
theorem test_wellFormed_pop_sp : (Instr.armPop 13).wellFormed = false := by decide
theorem test_wellFormed_push_lr : (Instr.armPush 14).wellFormed = true := by decide
theorem test_wellFormed_pop_ip : (Instr.armPop 12).wellFormed = true := by decide

/-! ## One word for each row of the opcode tables, written out from its encoding (R90, R97, R102) -/

theorem test_decode_x86_mov_ri : decodeBytes .x86 [0xBF, 0xEF, 0xBE, 0xAD, 0xDE] = .instr (.x86MovRI 7 0xDEADBEEF) := by decide
theorem test_decode_x86_mov_rr : decodeBytes .x86 [0x89, 0xC4] = .instr (.x86MovRR 4 0) := by decide
theorem test_decode_x86_add_rr : decodeBytes .x86 [0x01, 0xD8] = .instr (.x86AddRR 0 3) := by decide
theorem test_decode_x86_sub_rr : decodeBytes .x86 [0x29, 0xC8] = .instr (.x86SubRR 0 1) := by decide
theorem test_decode_x86_push : decodeBytes .x86 [0x54] = .instr (.x86Push 4) := by decide
theorem test_decode_x86_pop : decodeBytes .x86 [0x5A] = .instr (.x86Pop 2) := by decide
theorem test_decode_x86_ret : decodeBytes .x86 [0xC3] = .instr .x86Ret := by decide
theorem test_decode_x86_int : decodeBytes .x86 [0xCD, 0x80] = .instr (.x86Int 0x80) := by decide
theorem test_decode_x86_jmp : decodeBytes .x86 [0xE9, 0xFB, 0xFF, 0xFF, 0xFF] = .instr (.x86Jmp 0xFFFFFFFB) := by decide
theorem test_decode_x86_call : decodeBytes .x86 [0xE8, 0x06, 0x00, 0x00, 0x00] = .instr (.x86Call 6) := by decide
theorem test_decode_x86_nop : decodeBytes .x86 [0x90] = .instr .x86Nop := by decide

theorem test_decode_arm_mov_rr : decodeArm 0xE1A00001 = some (.armMovRR 0 1) := by decide
theorem test_decode_arm_mov_ri : decodeArm 0xE3A0113F = some (.armMovRI 1 1 0x3F) := by decide
theorem test_decode_arm_add_rr : decodeArm 0xE0802001 = some (.armAddRR 2 0 1) := by decide
theorem test_decode_arm_adds_rr : decodeArm 0xE0902001 = some (.armAddsRR 2 0 1) := by decide
theorem test_decode_arm_sub_rr : decodeArm 0xE0402001 = some (.armSubRR 2 0 1) := by decide
theorem test_decode_arm_subs_rr : decodeArm 0xE0512000 = some (.armSubsRR 2 1 0) := by decide
theorem test_decode_arm_push : decodeArm 0xE52D2004 = some (.armPush 2) := by decide
theorem test_decode_arm_pop : decodeArm 0xE49D3004 = some (.armPop 3) := by decide
theorem test_decode_arm_b : decodeArm 0xEAFFFFFE = some (.armB 0xFFFFFE) := by decide
theorem test_decode_arm_bl : decodeArm 0xEB000002 = some (.armBL 2) := by decide
theorem test_decode_arm_bx_lr : decodeArm 0xE12FFF1E = some .armBxLr := by decide
theorem test_decode_arm_svc : decodeArm 0xEF123456 = some (.armSvc 0x123456) := by decide

theorem test_decode_rv_lui : decodeRiscv 0x12345537 = some (.rvLui 10 0x12345) := by decide
theorem test_decode_rv_addi : decodeRiscv 0xFFC10113 = some (.rvAddi 2 2 0xFFC) := by decide
theorem test_decode_rv_add : decodeRiscv 0x00B50633 = some (.rvAdd 12 10 11) := by decide
theorem test_decode_rv_sub : decodeRiscv 0x40A00633 = some (.rvSub 12 0 10) := by decide
theorem test_decode_rv_lw : decodeRiscv 0xFFD12503 = some (.rvLw 10 2 0xFFD) := by decide
theorem test_decode_rv_sw : decodeRiscv 0xFE012E23 = some (.rvSw 0 2 0xFFC) := by decide
theorem test_decode_rv_jal : decodeRiscv 0x010000EF = some (.rvJal 1 8) := by decide
theorem test_decode_rv_jal_bits : decodeRiscv 0xFFDFF06F = some (.rvJal 0 0xFFFFE) := by decide
theorem test_decode_rv_jalr : decodeRiscv 0x000080E7 = some (.rvJalr 1 1 0) := by decide
theorem test_decode_rv_ecall : decodeRiscv 0x00000073 = some .rvEcall := by decide

/-! ## Unmatched words (R85, R92, R98, R103, R201) -/

theorem test_unmatched_x86 : decodeBytes .x86 [0x89, 0x00] = .unmatched 0x89 ∧ decodeBytes .x86 [0xF4] = .unmatched 0xF4 := by
  decide
theorem test_unmatched_arm : decodeArm 0x03A00005 = none ∧ decodeArm 0xE1A0F000 = none ∧ decodeArm 0xE1A0000F = none ∧
    decodeArm 0xE52DD004 = none ∧ decodeArm 0xE320F000 = none := by decide
theorem test_unmatched_riscv : decodeRiscv 0x00100073 = none ∧ decodeRiscv 0 = none := by decide

/-! ## The encoder against words the spec writes out (95 Parts 2 and 3) -/

theorem test_encode_x86 : encode (.x86MovRR 0 3) = [0x89, 0xD8] ∧ encode (.x86Call 7) = [0xE8, 7, 0, 0, 0] := by decide
theorem test_encode_arm : encodeWord (.armSubsRR 2 1 0) = 0xE0512000 ∧ encodeWord (.armPop 3) = 0xE49D3004 ∧
    encodeWord .armBxLr = 0xE12FFF1E := by decide
theorem test_encode_riscv : encodeWord (.rvSw 0 2 0xFFC) = 0xFE012E23 ∧ encodeWord (.rvJal 1 8) = 0x010000EF ∧
    encodeWord (.rvSub 12 0 10) = 0x40A00633 := by decide

/-! ## Records (95 section 2.1) -/

theorem test_record_short : (fresh .x86 [0xB8, 0x78, 0x56]).record = ⟨0xB8, [0, 0x5678], 5, "MOV_RI"⟩ := by decide
theorem test_record_unmatched : (fresh .arm (word 0x03A00005)).record = ⟨0x03A00005, [], 4, "NOP_UNMATCHED"⟩ := by decide
theorem test_record_arm_b : (fresh .arm (word 0xEAFFFFFE)).record = ⟨0xEAFFFFFE, [0xFFFFFFF8], 4, "B"⟩ := by decide
theorem test_record_rv_addi : (fresh .riscv (word 0x80000513)).record = ⟨0x80000513, [10, 0, 0xFFFFF800], 4, "ADDI"⟩ := by decide

/-! ## x86 steps (95 sections 2.2 to 2.5) -/

theorem test_x86_mov_ri : after (step (fresh .x86 [0xBF, 0xEF, 0xBE, 0xAD, 0xDE])) (fun t => (t.x86Get 7, t.view16 7, t.pc)) =
    some (0xDEADBEEF, 0xBEEF, 5) := by decide
theorem test_x86_views : after (step (fresh .x86 [0xB8, 0x78, 0x56, 0x34, 0x12]))
    (fun t => (t.view16 0, t.viewLow8 0, t.viewHigh8 0)) = some (0x5678, 0x78, 0x56) := by decide
theorem test_x86_mov_rr : after (step ((fresh .x86 [0x89, 0xC4]).x86Set 0 0x12345678)) (fun t => (t.x86Get 4, t.pc)) =
    some (0x12345678, 2) := by decide
theorem test_x86_add_overflow :
    after (exec (.x86AddRR 0 3) (((fresh .x86 []).x86Set 0 0x7FFFFFFF).x86Set 3 1)) (fun t => (t.x86Get 0, t.x86Flags)) =
      some (0x80000000, ⟨false, true, false, true, true⟩) := by decide
theorem test_x86_add_same_register :
    after (exec (.x86AddRR 0 0) ((fresh .x86 []).x86Set 0 0x80000000)) (fun t => (t.x86Get 0, t.x86Flags)) =
      some (0, ⟨true, true, true, false, true⟩) := by decide
theorem test_x86_sub_borrow :
    after (exec (.x86SubRR 0 3) (((fresh .x86 []).x86Set 0 3).x86Set 3 5)) (fun t => (t.x86Get 0, t.x86Flags)) =
      some (0xFFFFFFFE, ⟨true, false, false, true, false⟩) := by decide
theorem test_x86_sub_overflow :
    after (exec (.x86SubRR 0 3) (((fresh .x86 []).x86Set 0 0x7FFFFFFF).x86Set 3 0xFFFFFFFF)) (fun t => (t.x86Get 0, t.x86Flags)) =
      some (0x80000000, ⟨true, true, false, true, true⟩) := by decide
theorem test_x86_push_esp : after (step (fresh .x86 [0x54])) (fun t => (t.x86Get 4, t.mem.readWord 0xFFFFC)) =
    some (0xFFFFC, 0x100000) := by decide
theorem test_x86_push_wraps : faultOf (step ((fresh .x86 [0x50]).x86Set 4 3)) = some (.memoryOutOfBounds 0xFFFFFFFF 4 0) := by
  decide
theorem test_x86_pop_esp : after (step (poke ((fresh .x86 [0x5C]).x86Set 4 0xFFFFC) 0xFFFFC 0x11223344)) (fun t => t.x86Get 4) =
    some 0x11223344 := by decide
theorem test_x86_pop_empty : faultOf (step (fresh .x86 [0x58])) = some (.memoryOutOfBounds 0x100000 4 0) := by decide
theorem test_x86_ret : after (step (poke ((fresh .x86 [0xC3]).x86Set 4 0xFFFFC) 0xFFFFC 0x0D)) (fun t => (t.pc, t.x86Get 4)) =
    some (0x0D, 0x100000) := by decide
theorem test_x86_ret_at_the_top : faultOf (step ((fresh .x86 [0xC3]).x86Set 4 0xFFFFE)) =
    some (.memoryOutOfBounds 0xFFFFE 4 0) := by decide
theorem test_x86_int : after (step (fresh .x86 [0xCD, 0x80])) (fun t => (t.pc, t.x86Get 4, t.x86Flags)) =
    some (2, 0x100000, .clear) := by decide
theorem test_x86_jmp_wraps : after (step (fresh .x86 [0xE9, 0xF0, 0xFF, 0xFF, 0xFF])) (fun t => (t.pc, t.completed)) =
    some (0xFFFFFFF5, true) := by decide
theorem test_x86_call : after (exec (.x86Call 6) ((fresh .x86 []).jump 5)) (fun t => (t.pc, t.x86Get 4, t.mem.readWord 0xFFFFC)) =
    some (0x10, 0xFFFFC, 0x0A) := by decide
theorem test_x86_call_fault : faultOf (step ((fresh .x86 [0xE8, 0, 0, 0, 0]).x86Set 4 0)) =
    some (.memoryOutOfBounds 0xFFFFFFFC 4 0) := by decide
theorem test_x86_nop : after (step (freshStrict .x86 [0x90])) (fun t => t.pc) = some 1 := by decide

/-! ## ARM steps (95 section 2.6) -/

theorem test_arm_mov_rr : after (step ((fresh .arm (word 0xE1A00001)).armSet 1 7)) (fun t => (t.armGet 0, t.pc)) = some (7, 4) := by
  decide
theorem test_arm_mov_ri : after (step (fresh .arm (word 0xE3A014FF))) (fun t => t.armGet 1) = some 0xFF000000 := by decide
theorem test_arm_mov_ri_straddles : after (step (fresh .arm (word 0xE3A0113F))) (fun t => t.armGet 1) = some 0xC000000F := by
  decide
theorem test_arm_add_rr : after (step (((fresh .arm (word 0xE0802001)).armSet 0 5).armSet 1 3)) (fun t => (t.armGet 2, t.armFlags)) =
    some (8, .clear) := by decide
theorem test_arm_adds_overflow :
    after (step (((fresh .arm (word 0xE0902001)).armSet 0 0x7FFFFFFF).armSet 1 1)) (fun t => (t.armGet 2, t.armFlags)) =
      some (0x80000000, ⟨true, false, false, true⟩) := by decide
theorem test_arm_adds_carry :
    after (step (((fresh .arm (word 0xE0902001)).armSet 0 0xFFFFFFFF).armSet 1 1)) (fun t => (t.armGet 2, t.armFlags)) =
      some (0, ⟨false, true, true, false⟩) := by decide
theorem test_arm_sub_rr : after (step (((fresh .arm (word 0xE0402001)).armSet 0 5).armSet 1 3)) (fun t => (t.armGet 2, t.armFlags)) =
    some (2, .clear) := by decide
theorem test_arm_subs_borrow :
    after (step (((fresh .arm (word 0xE0502001)).armSet 0 3).armSet 1 5)) (fun t => (t.armGet 2, t.armFlags)) =
      some (0xFFFFFFFE, ⟨true, false, false, false⟩) := by decide
theorem test_arm_subs_overflow :
    after (step (((fresh .arm (word 0xE0502001)).armSet 0 0x80000000).armSet 1 1)) (fun t => (t.armGet 2, t.armFlags)) =
      some (0x7FFFFFFF, ⟨false, false, true, true⟩) := by decide
theorem test_arm_push : after (step ((fresh .arm (word 0xE52D0004)).armSet 0 0x11223344))
    (fun t => (t.armGet 13, t.mem.read 0xFFFFC, t.mem.read 0xFFFFF)) = some (0xFFFFC, 0x44, 0x11) := by decide
theorem test_arm_pop : after (step (poke ((fresh .arm (word 0xE49D0004)).armSet 13 0xFFFFC) 0xFFFFC 0x11223344))
    (fun t => (t.armGet 0, t.armGet 13)) = some (0x11223344, 0x100000) := by decide
theorem test_arm_pop_empty : faultOf (step (fresh .arm (word 0xE49D0004))) = some (.memoryOutOfBounds 0x100000 4 0) := by decide
theorem test_arm_b : after (step (fresh .arm (word 0xEAFFFFFF))) (fun t => t.pc) = some 4 := by decide
theorem test_arm_b_self : after (step (fresh .arm (word 0xEAFFFFFE))) (fun t => t.pc) = some 0 := by decide
theorem test_arm_bl : after (exec (.armBL 2) ((fresh .arm []).jump 4)) (fun t => (t.armGet 14, t.pc)) = some (8, 0x14) := by
  decide
theorem test_arm_bx_lr : after (step ((fresh .arm (word 0xE12FFF1E)).armSet 14 8)) (fun t => t.pc) = some 8 := by decide
theorem test_arm_bx_lr_misaligned : faultOf (step ((fresh .arm (word 0xE12FFF1E)).armSet 14 6)) = some (.misalignedPC 0 6) := by
  decide
theorem test_arm_svc : after (exec (.armSvc 0) ((fresh .arm []).jump 8)) (fun t => (t.pc, t.armGet 14)) = some (0x0C, 0) := by
  decide

/-! ## RISC-V steps (95 section 2.7) -/

theorem test_rv_lui : after (step (fresh .riscv (word 0x12345537))) (fun t => t.rvGet 10) = some 0x12345000 := by decide
theorem test_rv_addi : after (step (fresh .riscv (word 0x80000513))) (fun t => (t.rvGet 10, t.pc)) = some (0xFFFFF800, 4) := by
  decide
theorem test_rv_addi_zero : after (step (fresh .riscv (word 0x00500013))) (fun t => (t.rvGet 0, t.riscv[0], t.pc)) = some (0, 0, 4) := by
  decide
theorem test_rv_add : after (step (((fresh .riscv (word 0x00B50633)).rvSet 10 5).rvSet 11 3)) (fun t => t.rvGet 12) = some 8 := by
  decide
theorem test_rv_sub : after (step (((fresh .riscv (word 0x40B50633)).rvSet 10 3).rvSet 11 5)) (fun t => t.rvGet 12) =
    some 0xFFFFFFFE := by decide
theorem test_rv_lw : after (step (poke ((fresh .riscv (word 0x00012503)).rvSet 2 0xFFFFC) 0xFFFFC 0x11223344)) (fun t => t.rvGet 10) =
    some 0x11223344 := by decide
theorem test_rv_lw_fault : faultOf (step (fresh .riscv (word 0xFFD12503))) = some (.memoryOutOfBounds 0xFFFFD 4 0) := by decide
theorem test_rv_sw : after (step (((fresh .riscv (word 0x00A12023)).rvSet 2 0xFFFFC).rvSet 10 0x11223344))
    (fun t => (t.mem.read 0xFFFFC, t.mem.read 0xFFFFF)) = some (0x44, 0x11) := by decide
theorem test_rv_sw_last_word : goesOn (step (fresh .riscv (word 0xFE012E23))) = true := by decide
theorem test_rv_jal : after (step (fresh .riscv (word 0x008000EF))) (fun t => (t.rvGet 1, t.pc)) = some (4, 8) := by decide
theorem test_rv_jal_misaligned : faultOf (step (fresh .riscv (word 0x006000EF))) = some (.misalignedPC 0 6) := by decide
theorem test_rv_jalr_reads_first : after (exec (.rvJalr 1 1 0) (((fresh .riscv []).rvSet 1 0x100).jump 8))
    (fun t => (t.pc, t.rvGet 1)) = some (0x100, 0x0C) := by decide
theorem test_rv_jalr_clears_bit_0 : after (step ((fresh .riscv (word 0x00008067)).rvSet 1 9)) (fun t => t.pc) = some 8 := by
  decide
theorem test_rv_ecall : after (exec .rvEcall ((fresh .riscv []).jump 4)) (fun t => t.pc) = some 8 := by decide

/-! ## The step beside the instruction (95 sections 2.1, 2.5; R92, R306, R307) -/

theorem test_step_unmatched : after (step (fresh .x86 [0xF4])) (fun t => t.pc) = some 1 ∧
    after (step (fresh .riscv (word 0x00100073))) (fun t => t.pc) = some 4 := by decide
theorem test_step_strict : faultOf (step (freshStrict .x86 [0xF4])) = some (.illegalInstruction 0 0xF4) ∧
    faultOf (step (freshStrict .arm (word 0xE320F000))) = some (.illegalInstruction 0 0xE320F000) := by decide
theorem test_step_completed : after (step (fresh .x86 [])) (fun t => (t.pc, t.completed)) = some (0, true) := by decide
theorem test_step_absent : faultOf (step (freshAbsent .arm)) = some (.notImplemented .arm) := by decide

/-! ## Table words -/

theorem test_table_x86 : decodeTableWord 40 0x12345678B8 = some (.x86MovRI 0 0x12345678) ∧
    decodeTableWord 8 0x90 = some .x86Nop ∧ decodeTableWord 16 0xD801 = some (.x86AddRR 0 3) := by decide
theorem test_table_words : decodeTableWord 32 0xE12FFF1E = some .armBxLr ∧ decodeTableWord 32 0x00000073 = some .rvEcall := by
  decide
theorem test_fetch_word_x86 : after (step (State.reset.withFetchWord 40 0x12345678B8)) (fun t => (t.x86Get 0, t.pc)) =
    some (0x12345678, 5) := by decide
theorem test_fetch_word_arm : after (step (State.reset.withFetchWord 32 0xE3A014FF)) (fun t => (t.armGet 1, t.pc)) =
    some (0xFF000000, 4) := by decide
theorem test_fetch_word_riscv : after (step (State.reset.withFetchWord 32 0x80000513)) (fun t => (t.rvGet 10, t.pc)) =
    some (0xFFFFF800, 4) := by decide

/-! ## Memory -/

theorem test_memory_write_zero_removes : Memory.write [(3, 7), (5, 9)] 3 0 = [(5, 9)] := by decide
theorem test_memory_write_order : Memory.write [(3, 7), (5, 9)] 4 8 = [(3, 7), (4, 8), (5, 9)] := by decide

/-! ## Host operations (95 section 2.8; R305, R322, R323, R340) -/

theorem test_host_write_mem_out : errorOf ((fresh .x86 []).hostWriteMem 0xFFFFE [1, 2, 3]) =
    some (.fault (.memoryOutOfBounds 0xFFFFE 3 0)) := by decide
theorem test_host_write_mem_top : resultOf ((fresh .x86 []).hostWriteMem 0xFFFFD [1, 2, 3]) (fun t => (t.mem.read 0xFFFFD, t.mem.read 0xFFFFF)) =
    some (1, 3) := by decide
theorem test_host_write_reg_view : errorOf ((fresh .x86 []).hostWriteReg "ax" 1) = some .unsupportedOperandShape := by decide
theorem test_host_write_reg_x0 : resultOf ((fresh .riscv []).hostWriteReg "x0" 5) (fun t => t.rvGet 0) = some 0 := by decide
theorem test_host_write_reg_esp : resultOf ((fresh .x86 []).hostWriteReg "esp" 0xFFFFC) (fun t => t.x86Get 4) = some 0xFFFFC := by
  decide
theorem test_host_reset : resultOf (((fresh .x86 [0x90]).jump 7).hostReset) (fun t => (t.pc, t.x86Get 4)) = some (0, 0x100000) := by
  decide
theorem test_run_empty : resultOf ((fresh .x86 []).hostRun []) (fun r => (r.steps, r.ending)) = some (0, .completed) := by decide
theorem test_run_one_step : resultOf ((fresh .x86 []).hostRun [0x90]) (fun r => (r.steps, r.ending)) = some (1, .completed) := by
  decide
theorem test_debug_one_step : resultOf ((fresh .x86 []).hostDebug [0x90]) (fun d => (d.trace.length, d.ending)) =
    some (1, .completed) := by decide
theorem test_registry_unknown : errorOf ((Registry.construct (Config.default .x86)).get "unknown") =
    some (.fault (.unsupportedArchitecture "unknown")) := by decide

/-! ## The assembler (95 L1-9, Part 3; R113 to R124) -/

/-- The numbered lines of a source text. -/
def linesOf (text : String) : List (Nat × Line) := sourceLines text.toList

theorem test_asm_mov : resultOf (assembleLines .x86 (linesOf "mov ecx, 0x10")) id = some [0xB9, 0x10, 0, 0, 0] := by decide
theorem test_asm_round_trip : resultOf (assembleLines .x86 (linesOf "mov ecx, 0x10\nadd ecx, ecx\nl:\njmp l")) id =
    some [0xB9, 0x10, 0, 0, 0, 0x01, 0xC9, 0xE9, 0xFB, 0xFF, 0xFF, 0xFF] := by decide
theorem test_asm_arm : resultOf (assembleLines .arm (linesOf "subs r2, r1, r0")) id = some [0x00, 0x20, 0x51, 0xE0] := by decide
theorem test_asm_riscv : resultOf (assembleLines .riscv (linesOf "addi sp, sp, -4")) id = some [0x13, 0x01, 0xC1, 0xFF] := by
  decide
theorem test_asm_undefined_label : errorOf (assembleLines .x86 (linesOf "jmp l")) = some ⟨1, .undefinedLabel "l"⟩ := by decide
theorem test_asm_unknown : validateLines .x86 (linesOf "foo\nnop\nmov ax, 1") =
    [⟨1, .unknownInstruction "foo"⟩, ⟨3, .unsupportedOperandShape⟩] := by decide
theorem test_asm_range : errorOf (assembleLines .riscv (linesOf "addi a0, a0, 2048")) = some ⟨1, .immediateOutOfRange⟩ := by
  decide

/-! ## Witnesses: states and operands that meet the statements' hypotheses, clause by clause -/

theorem witness_ResetLeavesEveryPieceAtItsResetValue : (fresh .arm []).cfg.variant = .minimal := by decide

theorem witness_ResetLeavesEveryPieceAtItsResetValue_absent : (freshAbsent .arm).cfg.variant = .unimplemented := by decide

theorem witness_StepKeepsTheInvariant : (fresh .x86 [0x50]).Inv ∧ goesOn (step (fresh .x86 [0x50])) = true :=
  ⟨⟨by decide, by decide, by decide, by decide⟩, by decide⟩
theorem witness_StepKeepsTheInvariant_arm :
    (fresh .arm (word 0xE52D0004)).Inv ∧ goesOn (step (fresh .arm (word 0xE52D0004))) = true :=
  ⟨⟨by decide, by decide, by decide, by decide⟩, by decide⟩

/-- The last word of memory can be stored. -/
theorem witness_StoreThenLoadGivesTheWord : (fresh .x86 []).mem.wf ∧
    ((fresh .x86 []).memWrite 0xFFFFC 1).toOption.isSome = true := by decide

theorem witness_AccessOutOfBoundsRaises_in : (0xFFFFC : Word).toNat + 4 ≤ (fresh .x86 []).cfg.memSize := by decide
theorem witness_AccessOutOfBoundsRaises_out : (fresh .x86 []).cfg.memSize < (0xFFFFD : Word).toNat + 4 := by decide
theorem witness_AccessOutOfBoundsRaises_top : (fresh .x86 []).cfg.memSize < 2 ^ 32 + 2 := by decide

theorem witness_DecodeOfEncodeIsTheInstruction : (Instr.armPush 14).wellFormed = true ∧ (Instr.rvJal 31 0xFFFFF).wellFormed = true := by
  decide

theorem witness_DecodedBytesAreTheEncoding : decodeBytes .x86 [0xB8, 0x78, 0x56] = .instr (.x86MovRI 0 0x5678) := by decide

theorem witness_UnmatchedBytes_x86 : decodeInstr .x86 [0x89, 0x00] = none := by decide
theorem witness_UnmatchedBytes_arm : decodeInstr .arm (word 0x03A00005) = none := by decide
theorem witness_UnmatchedBytes_riscv : decodeInstr .riscv (word 0x00100073) = none := by decide
theorem witness_UnmatchedBytes_step : let s := fresh .x86 [0xF4]
    s.cfg.variant = .minimal ∧ s.pc.toNat < s.code.length ∧ decode s.cfg.arch s.code s.pc = .unmatched 0xF4 ∧
      s.cfg.strictDecode = false := by decide
theorem witness_UnmatchedBytes_strict : let s := freshStrict .riscv (word 0x00100073)
    s.cfg.variant = .minimal ∧ s.pc.toNat < s.code.length ∧ decode s.cfg.arch s.code s.pc = .unmatched 0x00100073 ∧
      s.cfg.strictDecode = true := by decide

theorem witness_StepRunsTheDecodedInstruction : let s := fresh .arm (word 0xE12FFF1E)
    s.cfg.variant = .minimal ∧ s.pc.toNat < s.code.length ∧ decode s.cfg.arch s.code s.pc = .instr .armBxLr := by decide

theorem witness_CompletedStepChangesNothing : let s := (fresh .x86 [0x90]).jump 1
    s.cfg.variant = .minimal ∧ s.code.length ≤ s.pc.toNat := by decide

theorem witness_FaultsFollowTheirPriority_absent : (freshAbsent .riscv).cfg.variant = .unimplemented := by decide
theorem witness_FaultsFollowTheirPriority_completed : let s := freshStrict .x86 []
    s.cfg.variant = .minimal ∧ s.code.length ≤ s.pc.toNat := by decide
theorem witness_FaultsFollowTheirPriority_illegal : let s := freshStrict .x86 [0xF4]
    s.cfg.variant = .minimal ∧ s.pc.toNat < s.code.length ∧ decode s.cfg.arch s.code s.pc = .unmatched 0xF4 ∧
      s.cfg.strictDecode = true := by decide
theorem witness_FaultsFollowTheirPriority_memory : let s := fresh .x86 [0x58]
    s.cfg.variant = .minimal ∧ s.pc.toNat < s.code.length ∧ decode s.cfg.arch s.code s.pc = .instr (.x86Pop 0) ∧
      faultOf (step s) = some (.memoryOutOfBounds 0x100000 4 0) := by decide
theorem witness_FaultsFollowTheirPriority_misaligned : let s := fresh .riscv (word 0x006000EF)
    s.cfg.variant = .minimal ∧ s.pc.toNat < s.code.length ∧ decode s.cfg.arch s.code s.pc = .instr (.rvJal 1 3) ∧
      faultOf (step s) = some (.misalignedPC 0 6) := by decide

theorem witness_EachFaultHasItsCause_memory : faultOf (step (fresh .x86 [0x58])) = some (.memoryOutOfBounds 0x100000 4 0) := by
  decide
theorem witness_EachFaultHasItsCause_illegal : faultOf (step (freshStrict .x86 [0xF4])) = some (.illegalInstruction 0 0xF4) := by
  decide
theorem witness_EachFaultHasItsCause_misaligned : faultOf (step (fresh .riscv (word 0x006000EF))) = some (.misalignedPC 0 6) := by
  decide
theorem witness_EachFaultHasItsCause_absent : faultOf (step (freshAbsent .arm)) = some (.notImplemented .arm) := by decide

theorem witness_OnlyAddAndSubWriteFlags : goesOn (exec (.x86Push 0) (fresh .x86 [])) = true ∧
    (Instr.x86Push 0).writesX86Flags = false ∧ (Instr.x86Push 0).writesArmFlags = false := by decide
theorem witness_NoInstructionReadsAFlag : goesOn (exec (.x86AddRR 0 3) (fresh .x86 [])) = true ∧
    faultOf (exec (.x86Pop 0) (fresh .x86 [])) = some (.memoryOutOfBounds 0x100000 4 0) := by decide
theorem witness_StepKeepsParametersAndCode : goesOn (step (fresh .x86 [0x50])) = true := by decide
theorem witness_StepTouchesTheActiveArchitectureAlone_x86 : goesOn (step (fresh .x86 [0x50])) = true ∧
    (fresh .x86 [0x50]).cfg.arch ≠ .arm ∧ (fresh .x86 [0x50]).cfg.arch ≠ .riscv := by decide
theorem witness_StepTouchesTheActiveArchitectureAlone_arm : goesOn (step (fresh .arm (word 0xE0902001))) = true ∧
    (fresh .arm (word 0xE0902001)).cfg.arch ≠ .x86 := by decide
theorem witness_OnlyStoresWriteMemory : goesOn (exec (.rvLw 10 0 0) (fresh .riscv [])) = true ∧
    (Instr.rvLw 10 0 0).storesWord = false := by decide
theorem witness_PcAdvancesByTheRecordSize : let s := fresh .x86 [0x89, 0xD8]
    s.cfg.variant = .minimal ∧ s.pc.toNat < s.code.length ∧ goesOn (step s) = true ∧
      decode s.cfg.arch s.code s.pc = .instr (.x86MovRR 0 3) ∧ (Instr.x86MovRR 0 3).transfersControl = false := by decide
theorem witness_PcAdvancesByTheRecordSize_unmatched : let s := fresh .arm (word 0xE320F000)
    s.cfg.variant = .minimal ∧ s.pc.toNat < s.code.length ∧ goesOn (step s) = true ∧
      decode s.cfg.arch s.code s.pc = .unmatched 0xE320F000 := by decide

theorem witness_RiscvZeroRegister : (31 : RvReg) ≠ 0 := by decide

theorem witness_X86MovImmediate : byteAt [0xBF, 0x05] 0 = BitVec.ofNat 8 (0xB8 + (7 : X86Reg).val) := by decide
theorem witness_X86MovRegister_unmatched : byteAt [0x89] 0 = 0x89 ∧ byteAt [0x89] 1 &&& 0xC0 ≠ 0xC0 := by decide
theorem witness_X86AddWithFlags_unmatched : byteAt [0x01, 0xBF] 0 = 0x01 ∧ byteAt [0x01, 0xBF] 1 &&& 0xC0 ≠ 0xC0 := by decide
theorem witness_X86SubWithFlags_unmatched : byteAt [0x29, 0x7F] 0 = 0x29 ∧ byteAt [0x29, 0x7F] 1 &&& 0xC0 ≠ 0xC0 := by decide
theorem witness_X86Call_bytes : byteAt [0xE8] 0 = 0xE8 := by decide
theorem witness_X86Jmp_bytes : byteAt [0xE9, 0xFB, 0xFF, 0xFF, 0xFF] 0 = 0xE9 := by decide
theorem witness_X86IntAndNopOnlyAdvance_bytes : byteAt [0xCD] 0 = 0xCD := by decide
theorem witness_ArmBranches : ((fresh .arm []).jump 0xFFFFFFFC).pc.toNat % 4 = 0 := by decide

/-- A stack pointer at the very top: the slot is the last word of memory. -/
theorem witness_X86Push_in : (fresh .x86 []).mem.wf ∧
    ((fresh .x86 []).x86Get esp - 4).toNat + 4 ≤ (fresh .x86 []).cfg.memSize := by decide
theorem witness_X86Push_out : let s := (fresh .x86 []).x86Set esp 0x100001
    s.mem.wf ∧ s.cfg.memSize < (s.x86Get esp - 4).toNat + 4 := by decide
theorem witness_X86Push_wrap : let s := (fresh .x86 []).x86Set esp 3
    s.mem.wf ∧ s.cfg.memSize < (s.x86Get esp - 4).toNat + 4 := by decide
theorem witness_X86Pop_in : let s := (fresh .x86 []).x86Set esp 0xFFFFC
    (s.x86Get esp).toNat + 4 ≤ s.cfg.memSize ∧ (0 : X86Reg) ≠ esp := by decide
theorem witness_X86Pop_out : let s := (fresh .x86 []).x86Set esp 0xFFFFD
    s.cfg.memSize < (s.x86Get esp).toNat + 4 := by decide

theorem witness_PushThenPopRestoresTheRegisters_any : let s := (fresh .x86 []).x86Set esp 4
    s.mem.wf ∧ (s.x86Get esp - 4).toNat + 4 ≤ s.cfg.memSize := by decide
theorem witness_PushThenPopRestoresTheRegisters_reset : (Config.default .x86).spReset.toNat = (Config.default .x86).memSize ∧
    4 ≤ (Config.default .x86).memSize := by decide
theorem witness_PushThenPopRestoresTheRegisters_smallest : let c := { Config.default .x86 with memSize := 4, spReset := 4 }
    c.spReset.toNat = c.memSize ∧ 4 ≤ c.memSize := by decide
theorem witness_PushThenPopRestoresTheRegisters_zero : let c := { Config.default .x86 with spReset := 0 }
    c.spReset = 0 ∧ c.memSize < 2 ^ 32 := by decide

theorem witness_X86Call_in : (fresh .x86 []).mem.wf ∧
    ((fresh .x86 []).x86Get esp - 4).toNat + 4 ≤ (fresh .x86 []).cfg.memSize := by decide
theorem witness_X86Call_out : let s := (fresh .x86 []).x86Set esp 0
    s.mem.wf ∧ s.cfg.memSize < (s.x86Get esp - 4).toNat + 4 := by decide
theorem witness_X86Ret_in : let s := (fresh .x86 []).x86Set esp 0xFFFFC
    (s.x86Get esp).toNat + 4 ≤ s.cfg.memSize := by decide
theorem witness_X86Ret_out : (fresh .x86 []).cfg.memSize < ((fresh .x86 []).x86Get esp).toNat + 4 := by decide

theorem witness_ArmPush_in : (fresh .arm []).mem.wf ∧ (14 : ArmReg) ≠ armSp ∧
    ((fresh .arm []).armGet armSp - 4).toNat + 4 ≤ (fresh .arm []).cfg.memSize := by decide
theorem witness_ArmPush_out : let s := (fresh .arm []).armSet armSp 0x100001
    s.mem.wf ∧ (12 : ArmReg) ≠ armSp ∧ s.cfg.memSize < (s.armGet armSp - 4).toNat + 4 := by decide
theorem witness_ArmPop_in : let s := (fresh .arm []).armSet armSp 0xFFFFC
    (14 : ArmReg) ≠ armSp ∧ (s.armGet armSp).toNat + 4 ≤ s.cfg.memSize := by decide
theorem witness_ArmPop_out : (12 : ArmReg) ≠ armSp ∧ (fresh .arm []).cfg.memSize < ((fresh .arm []).armGet armSp).toNat + 4 := by
  decide
theorem witness_ArmBxLr_aligned : (((fresh .arm []).armSet armLr 0xFFFFFFFC).armGet armLr).toNat % 4 = 0 := by decide
theorem witness_ArmBxLr_misaligned : (((fresh .arm []).armSet armLr 0xFFFFFFFD).armGet armLr).toNat % 4 ≠ 0 := by decide

theorem witness_RvLw_in : let s := (fresh .riscv []).rvSet 2 0x100000
    (s.rvGet 2 + (0xFFC : BitVec 12).signExtend 32).toNat + 4 ≤ s.cfg.memSize := by decide
theorem witness_RvLw_out : let s := (fresh .riscv []).rvSet 2 0x100000
    s.cfg.memSize < (s.rvGet 2 + (0xFFD : BitVec 12).signExtend 32).toNat + 4 := by decide
theorem witness_RvSw_in : let s := (fresh .riscv []).rvSet 2 0x100000
    s.mem.wf ∧ (s.rvGet 2 + (0xFFC : BitVec 12).signExtend 32).toNat + 4 ≤ s.cfg.memSize := by decide
theorem witness_RvSw_out : let s := (fresh .riscv []).rvSet 2 0x100000
    s.mem.wf ∧ s.cfg.memSize < (s.rvGet 2 + (0xFFD : BitVec 12).signExtend 32).toNat + 4 := by decide
theorem witness_RvJal_aligned : ((fresh .riscv []).pc + BitVec.ofInt 32 (2 * (0xFFFFE : BitVec 20).toInt)).toNat % 4 = 0 := by
  decide
theorem witness_RvJal_misaligned : ((fresh .riscv []).pc + BitVec.ofInt 32 (2 * (0xFFFFF : BitVec 20).toInt)).toNat % 4 ≠ 0 := by
  decide
theorem witness_RvJalr_aligned : let s := (fresh .riscv []).rvSet 1 9
    ((s.rvGet 1 + (0 : BitVec 12).signExtend 32) &&& 0xFFFFFFFE).getLsbD 1 = false := by decide
theorem witness_RvJalr_misaligned : let s := (fresh .riscv []).rvSet 1 7
    ((s.rvGet 1 + (0 : BitVec 12).signExtend 32) &&& 0xFFFFFFFE).getLsbD 1 = true := by decide

theorem witness_DebugTraceMatchesRun : resultOf ((fresh .x86 []).hostDebug [0x90, 0x90]) (fun d => d.trace.length) = some 2 ∧
    resultOf ((fresh .x86 []).hostRun [0x90, 0x90]) (fun r => r.steps) = some 2 := by decide
theorem witness_RunIsStepsWithinTheCeiling : (continueLoop 1 0 (fresh .x86 [0x90])).ending = .completed ∧
    (continueLoop 2 0 (fresh .x86 [0xE9, 0xFB, 0xFF, 0xFF, 0xFF])).ending = .ceiling ∧
    (continueLoop 2 0 (fresh .x86 [0x58])).ending = .stopped (.fault (.memoryOutOfBounds 0x100000 4 0)) := by decide

theorem witness_HostWriteMem_in : (fresh .x86 []).cfg.variant = .minimal ∧ (fresh .x86 []).mem.wf ∧
    (0xFFFFD : Word).toNat + [1, 2, 3].length ≤ (fresh .x86 []).cfg.memSize := by decide
theorem witness_HostWriteMem_out : (fresh .x86 []).cfg.variant = .minimal ∧ (fresh .x86 []).mem.wf ∧
    (fresh .x86 []).cfg.memSize < (0xFFFFE : Word).toNat + [1, 2, 3].length := by decide
theorem witness_HostWriteReg_x86 : (fresh .x86 []).cfg.variant = .minimal ∧ genRegOf (fresh .x86 []).cfg.arch "edi" = some (.x86 7) := by
  decide
theorem witness_HostWriteReg_riscv_zero : (fresh .riscv []).cfg.variant = .minimal ∧
    genRegOf (fresh .riscv []).cfg.arch "zero" = some (.riscv 0) := by decide
theorem witness_HostWriteReg_refused : (fresh .arm []).cfg.variant = .minimal ∧ genRegOf (fresh .arm []).cfg.arch "pc" = none := by
  decide
theorem witness_RegistryKnowsThreeKeys : "unknown" ≠ "x86" ∧ "unknown" ≠ "arm" ∧ "unknown" ≠ "riscv" := by decide
theorem witness_UnimplementedBackendFailsEveryCall : (freshAbsent .arm).cfg.variant = .unimplemented ∧
    resultOf ((Registry.mk (fresh .x86 []) (freshAbsent .arm) (fresh .riscv [])).get "arm") (fun s => decide (s = freshAbsent .arm)) =
      some true := by decide

theorem witness_AssembledLineDecodesBack : resultOf (formOf .riscv "jal" ["ra".toList, "l".toList]) id = some (.rvJalTo 1 "l") ∧
    resultOf ((Form.rvJalTo 1 "l").resolve 4 [("l", 0)]) id = some (.rvJal 1 0xFFFFE) := by decide
theorem witness_DisplacementReachesTheLabel : resultOf (armDisplacement 0 0) id = some 0xFFFFFE ∧ resultOf (rvDisplacement 0 4) id = some 0xFFFFE := by
  decide
theorem witness_DisplacementReachesTheLabel_edges : resultOf (armDisplacement (2 ^ 25 + 4) 0) id = some 0x7FFFFF ∧
    errorOf (armDisplacement (2 ^ 25 + 8) 0) = some .displacementOutOfRange ∧ resultOf (rvDisplacement (2 ^ 20 - 2) 0) id = some 0x7FFFF ∧
    errorOf (rvDisplacement (2 ^ 20) 0) = some .displacementOutOfRange := by decide

end Sys2Proof.Tests
end

section
/-! SUPPORT. The decoder of an architecture gives instructions of that architecture alone (30_encoding R83, R90, R97, R102). -/

namespace Sys2Proof

/-- Two ARM register fields give what the row builds from two registers. -/
theorem armFields2_eq_some {w : Word} {hi lo : Nat} {k : ArmReg → ArmReg → Instr} {i : Instr}
    (h : armFields2 w hi lo k = some i) : ∃ a b, armField w hi = some a ∧ armField w lo = some b ∧ k a b = i := by
  unfold armFields2 at h
  split at h
  next a b ha hb => exact ⟨a, b, ha, hb, Option.some.inj h⟩
  next => cases h

/-- Rd, Rn and Rm give what the row builds from three registers. -/
theorem armFields3_eq_some {w : Word} {k : ArmReg → ArmReg → ArmReg → Instr} {i : Instr}
    (h : armFields3 w k = some i) :
    ∃ rd rn rm, armField w 12 = some rd ∧ armField w 16 = some rn ∧ armField w 0 = some rm ∧ k rd rn rm = i := by
  unfold armFields3 at h
  split at h
  next rd rn rm hd hn hm => exact ⟨rd, rn, rm, hd, hn, hm, Option.some.inj h⟩
  next => cases h

/-- Rt of PUSH and POP gives what the row builds from a register other than r13. -/
theorem armStackField_eq_some {w : Word} {k : ArmReg → Instr} {i : Instr} (h : armStackField w k = some i) :
    ∃ rt, armField w 12 = some rt ∧ rt ≠ armSp ∧ k rt = i := by
  unfold armStackField at h
  split at h
  next rt ht =>
    split at h
    next => cases h
    next hne => exact ⟨rt, ht, hne, Option.some.inj h⟩
  next => cases h

/-- Every row of a table builds instructions of one architecture. -/
def RowsOfArch {n : Nat} (arch : Arch) (rows : List (Row n)) : Prop :=
  ∀ r ∈ rows, ∀ w i, r.build w = some i → i.arch = arch

/-- A table decode gives an instruction of the table's architecture. -/
theorem RowsOfArch.decodeRows_arch {n : Nat} {arch : Arch} {rows : List (Row n)} (hrows : RowsOfArch arch rows)
    {w : BitVec n} {i : Instr} (h : decodeRows rows w = some i) : i.arch = arch := by
  obtain ⟨r, hr, -, hb⟩ := decodeRows_eq_some h
  exact hrows r hr w i hb

/-- The x86 rows build their instruction whatever the window is. -/
theorem x86Rows_arch : RowsOfArch .x86 x86Rows := by
  simp only [RowsOfArch, x86Rows, List.forall_mem_cons]
  refine ⟨?_, ?_, ?_, ?_, ?_, ?_, ?_, ?_, ?_, ?_, ?_, nofun⟩ <;> · rintro w i ⟨⟩; rfl

/-- Each ARM row goes through one of the three field readers, or builds its instruction whatever the word is. -/
theorem armRows_arch : RowsOfArch .arm armRows := by
  simp only [RowsOfArch, armRows, List.forall_mem_cons]
  refine ⟨?movRR, ?movRI, ?add, ?adds, ?sub, ?subs, ?push, ?pop, ?b, ?bl, ?bxLr, ?svc, nofun⟩
  case movRR =>
    intro w i h
    obtain ⟨rd, rm, -, -, rfl⟩ := armFields2_eq_some h
    rfl
  case movRI =>
    intro w i h
    obtain ⟨rd, -, rfl⟩ := Option.map_eq_some_iff.mp h
    rfl
  case add | adds | sub | subs =>
    intro w i h
    obtain ⟨rd, rn, rm, -, -, -, rfl⟩ := armFields3_eq_some h
    rfl
  case push | pop =>
    intro w i h
    obtain ⟨rt, -, -, rfl⟩ := armStackField_eq_some h
    rfl
  case b | bl | bxLr | svc => rintro w i ⟨⟩; rfl

/-- The RISC-V rows build their instruction whatever the word is. -/
theorem rvRows_arch : RowsOfArch .riscv rvRows := by
  simp only [RowsOfArch, rvRows, List.forall_mem_cons]
  refine ⟨?_, ?_, ?_, ?_, ?_, ?_, ?_, ?_, ?_, nofun⟩ <;> · rintro w i ⟨⟩; rfl

/-- A decode gives an instruction of the architecture whose decoder was asked. -/
theorem decodeInstr_arch {arch : Arch} {bytes : List Byte} {i : Instr} (h : decodeInstr arch bytes = some i) :
    i.arch = arch := by
  cases arch with
  | x86 => exact x86Rows_arch.decodeRows_arch h
  | arm => exact armRows_arch.decodeRows_arch h
  | riscv => exact rvRows_arch.decodeRows_arch h

/-- A byte string decodes to an instruction exactly when a row of the table gives it. -/
theorem decodeBytes_eq_instr {arch : Arch} {bytes : List Byte} {i : Instr} :
    decodeBytes arch bytes = .instr i ↔ decodeInstr arch bytes = some i := by
  unfold decodeBytes
  cases decodeInstr arch bytes <;> simp

/-- The instruction found at a pc is of the active architecture. -/
theorem decode_arch {arch : Arch} {code : List Byte} {pc : Word} {i : Instr} (h : decode arch code pc = .instr i) :
    i.arch = arch :=
  decodeInstr_arch (decodeBytes_eq_instr.mp h)

end Sys2Proof
end

section
/-! SUPPORT. What a step can change at all: the pc, data memory, and the registers and flags of one architecture. -/

namespace Sys2Proof.Machine

/-- From s to t nothing has changed but the pc, data memory, and the registers and flags of one architecture. -/
structure ChangesOnly (arch : Arch) (s t : State) : Prop where
  inputs : SameInputs s t
  x86 : arch ≠ .x86 → t.x86 = s.x86 ∧ t.x86Flags = s.x86Flags
  arm : arch ≠ .arm → t.arm = s.arm ∧ t.armFlags = s.armFlags
  riscv : arch ≠ .riscv → t.riscv = s.riscv

namespace ChangesOnly

/-! ## One rule for each update of the state -/

variable {arch : Arch} {s t : State}

theorem refl : ChangesOnly arch s s := ⟨⟨rfl, rfl⟩, fun _ => ⟨rfl, rfl⟩, fun _ => ⟨rfl, rfl⟩, fun _ => rfl⟩

theorem jump {a : Word} (h : ChangesOnly arch s t) : ChangesOnly arch s (t.jump a) :=
  ⟨h.inputs, h.x86, h.arm, h.riscv⟩

theorem advance {n : Word} (h : ChangesOnly arch s t) : ChangesOnly arch s (t.advance n) := h.jump

theorem setMem {m : Memory} (h : ChangesOnly arch s t) : ChangesOnly arch s (t.setMem m) :=
  ⟨h.inputs, h.x86, h.arm, h.riscv⟩

theorem x86Set {r : X86Reg} {v : Word} (h : ChangesOnly .x86 s t) : ChangesOnly .x86 s (t.x86Set r v) :=
  ⟨h.inputs, fun hne => absurd rfl hne, h.arm, h.riscv⟩

theorem setX86Flags {f : X86Flags} (h : ChangesOnly .x86 s t) : ChangesOnly .x86 s (t.setX86Flags f) :=
  ⟨h.inputs, fun hne => absurd rfl hne, h.arm, h.riscv⟩

theorem armSet {r : ArmReg} {v : Word} (h : ChangesOnly .arm s t) : ChangesOnly .arm s (t.armSet r v) :=
  ⟨h.inputs, h.x86, fun hne => absurd rfl hne, h.riscv⟩

theorem setArmFlags {f : ArmFlags} (h : ChangesOnly .arm s t) : ChangesOnly .arm s (t.setArmFlags f) :=
  ⟨h.inputs, h.x86, fun hne => absurd rfl hne, h.riscv⟩

theorem rvSet {r : RvReg} {v : Word} (h : ChangesOnly .riscv s t) : ChangesOnly .riscv s (t.rvSet r v) :=
  ⟨h.inputs, h.x86, h.arm, fun hne => absurd rfl hne⟩

/-! ## The accesses that answer a state -/

theorem of_memWrite {addr v : Word} (h : s.memWrite addr v = .ok t) : ChangesOnly arch s t := by
  obtain ⟨-, rfl⟩ := memWrite_eq_ok.mp h
  exact setMem refl

theorem of_x86PushWord {v : Word} (h : s.x86PushWord v = .ok t) : ChangesOnly .x86 s t := by
  obtain ⟨-, rfl⟩ := x86PushWord_eq_ok.mp h
  exact x86Set (setMem refl)

end ChangesOnly

/-- An instruction changes the pc, data memory, and the registers and flags of its own architecture alone. -/
theorem exec_changesOnly {i : Instr} {s t : State} (h : exec i s = .next t) : ChangesOnly i.arch s t := by
  cases i with
  | x86MovRI | x86MovRR => cases h; exact .advance (.x86Set .refl)
  | x86AddRR | x86SubRR => cases h; exact .advance (.setX86Flags (.x86Set .refl))
  | x86Push =>
    obtain ⟨u, hu, hk⟩ := attempt_eq_next.mp h
    cases hk; exact .advance (.of_x86PushWord hu)
  | x86Pop =>
    obtain ⟨v, -, hk⟩ := attempt_eq_next.mp h
    cases hk; exact .advance (.x86Set (.x86Set .refl))
  | x86Ret =>
    obtain ⟨v, -, hk⟩ := attempt_eq_next.mp h
    cases hk; exact .jump (.x86Set .refl)
  | x86Call =>
    obtain ⟨u, hu, hk⟩ := attempt_eq_next.mp h
    cases hk; exact .jump (.of_x86PushWord hu)
  | x86Int | x86Nop | armSvc | rvEcall => cases h; exact .advance .refl
  | x86Jmp | armB => cases h; exact .jump .refl
  | armMovRR | armMovRI | armAddRR | armSubRR => cases h; exact .advance (.armSet .refl)
  | armAddsRR | armSubsRR => cases h; exact .advance (.setArmFlags (.armSet .refl))
  | armPush =>
    obtain ⟨u, hu, hk⟩ := attempt_eq_next.mp h
    cases hk; exact .advance (.armSet (.of_memWrite hu))
  | armPop =>
    obtain ⟨v, -, hk⟩ := attempt_eq_next.mp h
    cases hk; exact .advance (.armSet (.armSet .refl))
  | armBL => cases h; exact .jump (.armSet .refl)
  | armBxLr =>
    obtain ⟨-, rfl⟩ := transferAligned_eq_next.mp h
    exact .jump .refl
  | rvLui | rvAddi | rvAdd | rvSub => cases h; exact .advance (.rvSet .refl)
  | rvLw =>
    obtain ⟨v, -, hk⟩ := attempt_eq_next.mp h
    cases hk; exact .advance (.rvSet .refl)
  | rvSw =>
    obtain ⟨u, hu, hk⟩ := attempt_eq_next.mp h
    cases hk; exact .advance (.of_memWrite hu)
  | rvJal | rvJalr =>
    obtain ⟨-, rfl⟩ := transferAligned_eq_next.mp h
    exact .jump (.rvSet .refl)

/-- A step changes the pc, data memory, and the registers and flags of the active architecture alone. -/
theorem step_changesOnly {s t : State} (h : step s = .next t) : ChangesOnly s.cfg.arch s t := by
  rcases step_cases h with ⟨-, rfl⟩ | ⟨opcode, -, hu⟩ | ⟨i, hsel, hexec⟩
  · exact .refl
  · obtain ⟨-, rfl⟩ := execUnmatched_eq_next.mp hu
    exact .advance .refl
  · obtain ⟨-, -, hdec⟩ := select_eq_run.mp hsel
    exact decode_arch hdec ▸ exec_changesOnly hexec

/-- Settles O21: the decoder of the active architecture gives its own instructions alone, and an instruction changes no other
architecture's registers or flags. -/
theorem stepTouchesTheActiveArchitectureAlone : Obligations.StepTouchesTheActiveArchitectureAlone := by
  intro s t h
  obtain ⟨-, x86, arm, riscv⟩ := step_changesOnly h
  exact ⟨x86, arm, riscv⟩

end Sys2Proof.Machine
end

section
/-! SUPPORT. Multiples of 4 (10_state R42): the sums the ARM and RISC-V meanings form keep them. -/

namespace Sys2Proof.Machine

/-- Bits 1..0 are 0 exactly when the number is a multiple of 4. -/
theorem aligned4_iff {a : Word} : aligned4 a = true ↔ a.toNat % 4 = 0 := by
  simp [aligned4, ← BitVec.toNat_inj]

theorem aligned4_add {a b : Word} (ha : aligned4 a = true) (hb : aligned4 b = true) : aligned4 (a + b) = true := by
  rw [aligned4_iff] at *
  rw [BitVec.toNat_add]
  omega

/-- A branch offset ends in the two zero bits below imm24 (30_encoding R96). -/
theorem aligned4_armOffset (imm24 : BitVec 24) : aligned4 (armOffset imm24) = true := by
  have low : (armOffset imm24).extractLsb' 0 2 = 0#2 := by
    ext k hk
    rw [BitVec.getElem_extractLsb', armOffset, BitVec.getLsbD_signExtend, if_pos (by omega), BitVec.getLsbD_append]
    simp [hk]
  simp [aligned4, low]

theorem aligned4_armTarget {pc : Word} (h : aligned4 pc = true) (imm24 : BitVec 24) :
    aligned4 (armTarget pc imm24) = true :=
  aligned4_add (aligned4_add h (by decide)) (aligned4_armOffset imm24)

/-- ARM and RISC-V instructions are four bytes long (30_encoding R104). -/
theorem size_of_arch_ne_x86 {i : Instr} (h : i.arch ≠ .x86) : i.size = 4 := by
  revert h
  cases i <;> simp [Instr.arch, Instr.size]

theorem unit_of_ne_x86 {arch : Arch} (h : arch ≠ .x86) : arch.unit = 4 := by
  cases arch with
  | x86 => exact absurd rfl h
  | arm | riscv => rfl

end Sys2Proof.Machine
end

section
/-! SUPPORT. What an instruction that completes did, said once: the register, flag and memory writes its kind allows, then one
write of the pc. -/

namespace Sys2Proof.Machine

/-- u is s after register, flag and memory writes that instruction i may make: flags only if it writes them (10_state R30,
R34), memory only if it stores, and only in bounds (R47). -/
inductive Writes (i : Instr) (s : State) : State → Prop
  | refl : Writes i s s
  | x86Set {u : State} {r : X86Reg} {v : Word} : Writes i s u → Writes i s (u.x86Set r v)
  | armSet {u : State} {r : ArmReg} {v : Word} : Writes i s u → Writes i s (u.armSet r v)
  | rvSet {u : State} {r : RvReg} {v : Word} : Writes i s u → Writes i s (u.rvSet r v)
  | setX86Flags {u : State} {f : X86Flags} (hi : i.writesX86Flags = true) : Writes i s u → Writes i s (u.setX86Flags f)
  | setArmFlags {u : State} {f : ArmFlags} (hi : i.writesArmFlags = true) : Writes i s u → Writes i s (u.setArmFlags f)
  | memWrite {u t : State} {addr v : Word} (hi : i.storesWord = true) (hw : u.memWrite addr v = .ok t) :
      Writes i s u → Writes i s t

/-- t is s after instruction i: its writes, then the generic advance past its own bytes (R40), or for a control transfer the
target, which on ARM and RISC-V is a multiple of 4 (R41, R42). -/
inductive Executed (i : Instr) (s : State) : State → Prop
  | advance {u : State} (hi : i.transfersControl = false) :
      Writes i s u → Executed i s (u.advance (BitVec.ofNat 32 i.size))
  | jump {u : State} {target : Word} (hi : i.transfersControl = true)
      (ha : i.arch ≠ .x86 → aligned4 s.pc = true → aligned4 target = true) : Writes i s u → Executed i s (u.jump target)

/-- A push stores one word and moves esp. -/
theorem Writes.of_x86PushWord {i : Instr} {s t : State} {v : Word} (hi : i.storesWord = true)
    (h : s.x86PushWord v = .ok t) : Writes i s t := by
  obtain ⟨hin, rfl⟩ := x86PushWord_eq_ok.mp h
  exact .x86Set (.memWrite hi (memWrite_eq_ok.mpr ⟨hin, rfl⟩) .refl)

/-- An instruction that answers a next state made writes of its own kind and one write of the pc. -/
theorem exec_executed {i : Instr} {s t : State} (h : exec i s = .next t) : Executed i s t := by
  cases i with
  | x86MovRI | x86MovRR => cases h; exact .advance rfl (.x86Set .refl)
  | x86AddRR | x86SubRR => cases h; exact .advance rfl (.setX86Flags rfl (.x86Set .refl))
  | x86Push =>
    obtain ⟨u, hu, hk⟩ := attempt_eq_next.mp h
    cases hk; exact .advance rfl (.of_x86PushWord rfl hu)
  | x86Pop =>
    obtain ⟨v, -, hk⟩ := attempt_eq_next.mp h
    cases hk; exact .advance rfl (.x86Set (.x86Set .refl))
  | x86Ret =>
    obtain ⟨v, -, hk⟩ := attempt_eq_next.mp h
    cases hk; exact .jump rfl (absurd rfl) (.x86Set .refl)
  | x86Call =>
    obtain ⟨u, hu, hk⟩ := attempt_eq_next.mp h
    cases hk; exact .jump rfl (absurd rfl) (.of_x86PushWord rfl hu)
  | x86Jmp => cases h; exact .jump rfl (absurd rfl) .refl
  | x86Int | x86Nop | armSvc | rvEcall => cases h; exact .advance rfl .refl
  | armMovRR | armMovRI | armAddRR | armSubRR => cases h; exact .advance rfl (.armSet .refl)
  | armAddsRR | armSubsRR => cases h; exact .advance rfl (.setArmFlags rfl (.armSet .refl))
  | armPush =>
    obtain ⟨u, hu, hk⟩ := attempt_eq_next.mp h
    cases hk; exact .advance rfl (.armSet (.memWrite rfl hu .refl))
  | armPop =>
    obtain ⟨v, -, hk⟩ := attempt_eq_next.mp h
    cases hk; exact .advance rfl (.armSet (.armSet .refl))
  | armB imm24 => cases h; exact .jump rfl (fun _ hpc => aligned4_armTarget hpc imm24) .refl
  | armBL imm24 => cases h; exact .jump rfl (fun _ hpc => aligned4_armTarget hpc imm24) (.armSet .refl)
  | armBxLr =>
    obtain ⟨ha, rfl⟩ := transferAligned_eq_next.mp h
    exact .jump rfl (fun _ _ => ha) .refl
  | rvLui | rvAddi | rvAdd | rvSub => cases h; exact .advance rfl (.rvSet .refl)
  | rvLw =>
    obtain ⟨v, -, hk⟩ := attempt_eq_next.mp h
    cases hk; exact .advance rfl (.rvSet .refl)
  | rvSw =>
    obtain ⟨u, hu, hk⟩ := attempt_eq_next.mp h
    cases hk; exact .advance rfl (.memWrite rfl hu .refl)
  | rvJal | rvJalr =>
    obtain ⟨ha, rfl⟩ := transferAligned_eq_next.mp h
    exact .jump rfl (fun _ _ => ha) (.rvSet .refl)

/-! ## What the writes keep -/

namespace Writes

variable {i : Instr} {s u : State}

theorem cfg (h : Writes i s u) : u.cfg = s.cfg := by
  induction h with
  | refl => rfl
  | x86Set _ ih | armSet _ ih | rvSet _ ih | setX86Flags _ _ ih | setArmFlags _ _ ih => exact ih
  | memWrite _ hw _ ih => obtain ⟨-, rfl⟩ := memWrite_eq_ok.mp hw; exact ih

/-- The pc is written last, by none of the writes. -/
theorem pc (h : Writes i s u) : u.pc = s.pc := by
  induction h with
  | refl => rfl
  | x86Set _ ih | armSet _ ih | rvSet _ ih | setX86Flags _ _ ih | setArmFlags _ _ ih => exact ih
  | memWrite _ hw _ ih => obtain ⟨-, rfl⟩ := memWrite_eq_ok.mp hw; exact ih

theorem x86Flags (h : Writes i s u) (hi : i.writesX86Flags = false) : u.x86Flags = s.x86Flags := by
  induction h with
  | refl => rfl
  | x86Set _ ih | armSet _ ih | rvSet _ ih | setArmFlags _ _ ih => exact ih
  | setX86Flags ht => cases ht.symm.trans hi
  | memWrite _ hw _ ih => obtain ⟨-, rfl⟩ := memWrite_eq_ok.mp hw; exact ih

theorem armFlags (h : Writes i s u) (hi : i.writesArmFlags = false) : u.armFlags = s.armFlags := by
  induction h with
  | refl => rfl
  | x86Set _ ih | armSet _ ih | rvSet _ ih | setX86Flags _ _ ih => exact ih
  | setArmFlags ht => cases ht.symm.trans hi
  | memWrite _ hw _ ih => obtain ⟨-, rfl⟩ := memWrite_eq_ok.mp hw; exact ih

theorem mem (h : Writes i s u) (hi : i.storesWord = false) : u.mem = s.mem := by
  induction h with
  | refl => rfl
  | x86Set _ ih | armSet _ ih | rvSet _ ih | setX86Flags _ _ ih | setArmFlags _ _ ih => exact ih
  | memWrite ht => cases ht.symm.trans hi

end Writes

end Sys2Proof.Machine
end

section
/-! SUPPORT. The invariant of the machine under each update of the state (20_memory R60, R65; 10_state R36, R38, R42). -/

namespace Sys2Proof.Machine

namespace State.Inv

variable {s t : State}

/-- A write of x0 is discarded, and a write of another register leaves the cell of x0. -/
theorem rvSet (h : s.Inv) (r : RvReg) (v : Word) : (s.rvSet r v).Inv := by
  refine ⟨h.memWf, h.memBelow, ?_, h.pcAligned⟩
  by_cases hr : r = 0
  · simp [hr, h.zeroCell]
  · simp [hr, h.zeroCell]

/-- An answered store is in bounds, so it stays below MEM_SIZE. -/
theorem memWrite {addr v : Word} (h : s.Inv) (hw : s.memWrite addr v = .ok t) : t.Inv := by
  obtain ⟨hin, rfl⟩ := memWrite_eq_ok.mp hw
  exact ⟨writeWord_wf h.memWf _ v, writeWord_below h.memBelow hin v, h.zeroCell, h.pcAligned⟩

theorem writes {i : Instr} (hw : Writes i s t) (h : s.Inv) : t.Inv := by
  induction hw with
  | refl => exact h
  | x86Set _ ih | armSet _ ih | setX86Flags _ _ ih | setArmFlags _ _ ih =>
    exact ⟨ih.memWf, ih.memBelow, ih.zeroCell, ih.pcAligned⟩
  | rvSet _ ih => exact ih.rvSet _ _
  | memWrite _ hm _ ih => exact ih.memWrite hm

theorem jump {target : Word} (h : s.Inv) (ha : s.cfg.arch ≠ .x86 → aligned4 target = true) : (s.jump target).Inv :=
  ⟨h.memWf, h.memBelow, h.zeroCell, ha⟩

theorem advance {n : Nat} (h : s.Inv) (hn : s.cfg.arch ≠ .x86 → n = 4) : (s.advance (BitVec.ofNat 32 n)).Inv :=
  h.jump fun harch => aligned4_add (h.pcAligned harch) (by rw [hn harch]; decide)

end State.Inv

/-- An instruction of the active architecture keeps the invariant. -/
theorem Executed.inv {i : Instr} {s t : State} (h : Executed i s t) (harch : i.arch = s.cfg.arch) (hs : s.Inv) :
    t.Inv := by
  cases h with
  | advance _ hw => exact (hs.writes hw).advance fun hne => size_of_arch_ne_x86 (harch ▸ hw.cfg ▸ hne)
  | jump _ ha hw =>
    refine (hs.writes hw).jump fun hne => ?_
    rw [hw.cfg] at hne
    exact ha (harch ▸ hne) (hs.pcAligned hne)

/-- Settles O3: the writes an instruction can make keep the invariant one by one, and where the step leaves the pc is a
multiple of 4 on ARM and RISC-V. -/
theorem stepKeepsTheInvariant : Obligations.StepKeepsTheInvariant := by
  intro s t hs h
  rcases step_cases h with ⟨-, rfl⟩ | ⟨opcode, -, hu⟩ | ⟨i, hsel, hexec⟩
  · exact hs
  · obtain ⟨-, rfl⟩ := execUnmatched_eq_next.mp hu
    exact hs.advance unit_of_ne_x86
  · obtain ⟨-, -, hdec⟩ := select_eq_run.mp hsel
    exact (exec_executed hexec).inv (decode_arch hdec) hs

end Sys2Proof.Machine
end

section
/-! SUPPORT. What an instruction and a step change and keep, read off the writes of each instruction (10_state R30, R34, R40,
R45 to R47). -/

namespace Sys2Proof.Machine

/-- The writes of an instruction apart from the pc. -/
theorem Executed.writes {i : Instr} {s t : State} (h : Executed i s t) : ∃ u a, Writes i s u ∧ u.jump a = t := by
  cases h with
  | advance _ hw | jump _ _ hw => exact ⟨_, _, hw, rfl⟩

/-- The generic advance: only a control transfer sets the pc itself (R40, R41). -/
theorem Executed.pc {i : Instr} {s t : State} (h : Executed i s t) (hi : i.transfersControl = false) :
    t.pc = s.pc + BitVec.ofNat 32 i.size := by
  cases h with
  | advance _ hw => rw [State.advance_pc, hw.pc]
  | jump ht => cases ht.symm.trans hi

/-- Settles O18: an instruction that does not write a flag set makes no write of it. -/
theorem onlyAddAndSubWriteFlags : Obligations.OnlyAddAndSubWriteFlags := by
  intro i s t h
  obtain ⟨u, a, hw, rfl⟩ := (exec_executed h).writes
  exact ⟨hw.x86Flags, hw.armFlags⟩

/-- Settles O22: memory is written by the instructions that store alone. -/
theorem onlyStoresWriteMemory : Obligations.OnlyStoresWriteMemory := by
  intro i s t h hi
  obtain ⟨u, a, hw, rfl⟩ := (exec_executed h).writes
  exact hw.mem hi

/-- Settles O20: the parameters and the code buffer are outside everything a step changes. -/
theorem stepKeepsParametersAndCode : Obligations.StepKeepsParametersAndCode := fun _ _ h => (step_changesOnly h).inputs

/-! ## What a step selects -/

theorem completed_iff {s : State} : s.completed = true ↔ s.code.length ≤ s.pc.toNat := by
  simp [State.completed]

/-- A present backend finds nothing to do exactly when its program has completed. -/
theorem select_eq_finished {s : State} : s.select = .finished ↔ s.cfg.variant = .minimal ∧ s.completed = true := by
  unfold State.select
  cases s.cfg.variant <;> cases s.completed <;> cases decode s.cfg.arch s.code s.pc <;> simp

/-- An unmatched record is the decode at the pc of a present backend's unfinished program. -/
theorem select_eq_unmatched {s : State} {opcode : Word} :
    s.select = .unmatched opcode ↔
      s.cfg.variant = .minimal ∧ s.completed = false ∧ decode s.cfg.arch s.code s.pc = .unmatched opcode := by
  unfold State.select
  cases s.cfg.variant <;> cases s.completed <;> cases decode s.cfg.arch s.code s.pc <;> simp

theorem step_of_finished {s : State} (h : s.select = .finished) : step s = .next s := by
  simp [step, h]

/-- Settles O14: past the end of the code a step selects nothing to do. -/
theorem completedStepChangesNothing : Obligations.CompletedStepChangesNothing := fun _ =>
  ⟨completed_iff, fun hv hc => step_of_finished (select_eq_finished.mpr ⟨hv, completed_iff.mpr hc⟩)⟩

/-! ## The size the record gives -/

/-- The record of a decoded instruction has the instruction's size (R49). -/
theorem record_size_of_instr {s : State} {i : Instr} (h : decode s.cfg.arch s.code s.pc = .instr i) :
    s.record.size = i.size := by
  unfold decode at h
  simp [State.record, recordOf, h]

/-- The unmatched record has the size UNIT (30_encoding R92). -/
theorem record_size_of_unmatched {s : State} {opcode : Word} (h : decode s.cfg.arch s.code s.pc = .unmatched opcode) :
    s.record.size = s.cfg.arch.unit := by
  unfold decode at h
  simp [State.record, recordOf, h]

/-- Settles O23: before the end of the code a step runs what the decoder finds, and both the unmatched no-op and an instruction
that transfers no control end in the generic advance by the record's size. -/
theorem pcAdvancesByTheRecordSize : Obligations.PcAdvancesByTheRecordSize := by
  intro s t hv hlt h
  rcases step_cases h with ⟨hsel, -⟩ | ⟨opcode, hsel, hu⟩ | ⟨i, hsel, hexec⟩
  · obtain ⟨-, hc⟩ := select_eq_finished.mp hsel
    exact absurd (completed_iff.mp hc) (by omega)
  · obtain ⟨-, -, hdec⟩ := select_eq_unmatched.mp hsel
    obtain ⟨-, rfl⟩ := execUnmatched_eq_next.mp hu
    refine ⟨fun j hj => ?_, fun _ _ => by rw [record_size_of_unmatched hdec, State.advance_pc]⟩
    cases hdec.symm.trans hj
  · obtain ⟨-, -, hdec⟩ := select_eq_run.mp hsel
    refine ⟨fun j hj hi => ?_, fun _ hj => ?_⟩
    · cases hdec.symm.trans hj
      rw [record_size_of_instr hdec]
      exact (exec_executed hexec).pc hi
    · cases hdec.symm.trans hj

end Sys2Proof.Machine
end

section
/-! SUPPORT. Every instruction has its meaning: it answers a next state or a fault, never a refusal. -/

namespace Sys2Proof.Machine

/-- The outcome is a next state or a fault. -/
def Answers (o : StepOutcome) : Prop := (∃ t, o = .next t) ∨ ∃ f, o = .fault f

namespace Answers

theorem next (t : State) : Answers (.next t) := .inl ⟨t, rfl⟩

theorem raise (f : Fault) : Answers (raise f) := .inr ⟨f, rfl⟩

theorem attempt {α : Type} {r : Except Fault α} {k : α → StepOutcome} (hk : ∀ a, Answers (k a)) :
    Answers (attempt r k) := by
  cases r with
  | ok a => exact hk a
  | error f => exact raise f

theorem transferAligned {s done : State} {target : Word} : Answers (transferAligned s target done) := by
  unfold Machine.transferAligned
  split
  · exact next _
  · exact raise _

end Answers

theorem exec_answers (i : Instr) (s : State) : Answers (exec i s) := by
  cases i with
  | x86MovRI | x86MovRR | x86AddRR | x86SubRR | x86Int | x86Jmp | x86Nop => exact .next _
  | armMovRR | armMovRI | armAddRR | armAddsRR | armSubRR | armSubsRR | armB | armBL | armSvc => exact .next _
  | rvLui | rvAddi | rvAdd | rvSub | rvEcall => exact .next _
  | x86Push | x86Pop | x86Ret | x86Call | armPush | armPop | rvLw | rvSw => exact .attempt fun _ => .next _
  | armBxLr | rvJal | rvJalr => exact .transferAligned

theorem execUnmatched_answers (opcode : Word) (s : State) : Answers (execUnmatched opcode s) := by
  unfold execUnmatched
  split
  · exact .raise _
  · exact .next _

/-- Settles O17: whatever a step selects answers a next state or a fault. -/
theorem noStepIsRefused : Obligations.NoStepIsRefused := by
  intro s
  change Answers (step s)
  unfold step
  cases s.select with
  | unimplemented => exact .raise _
  | finished => exact .next s
  | unmatched opcode => exact execUnmatched_answers opcode s
  | run i => exact exec_answers i s

end Sys2Proof.Machine
end

section
/-! SUPPORT. No instruction reads a flag (10_state R30, R34, D44): other flags go through every operation of the meanings and
out again. -/

namespace Sys2Proof.Machine

/-- The state with other flags. -/
def State.withFlags (s : State) (f : X86Flags) (g : ArmFlags) : State := (s.setX86Flags f).setArmFlags g

@[simp] theorem x86PushSlot_withFlags (s : State) (f : X86Flags) (g : ArmFlags) :
    (s.withFlags f g).x86PushSlot = s.x86PushSlot := rfl

/-- A store goes as it did before the flags were changed. -/
theorem memWrite_withFlags (s : State) (f : X86Flags) (g : ArmFlags) (addr v : Word) :
    (s.withFlags f g).memWrite addr v = (s.memWrite addr v).map (·.withFlags f g) := by
  rw [State.memWrite, State.memWrite, apply_ite (Except.map _)]
  rfl

/-- A push goes as it did before the flags were changed. -/
theorem x86PushWord_withFlags (s : State) (f : X86Flags) (g : ArmFlags) (v : Word) :
    (s.withFlags f g).x86PushWord v = (s.x86PushWord v).map (·.withFlags f g) := by
  rw [State.x86PushWord, x86PushSlot_withFlags, memWrite_withFlags, State.x86PushWord]
  cases s.memWrite s.x86PushSlot v <;> rfl

/-- The second outcome is the first but for the flags. -/
def SameButFlags (o o' : StepOutcome) : Prop :=
  (∀ t, o = .next t → ∃ t', o' = .next t' ∧ t'.withFlags t.x86Flags t.armFlags = t) ∧ ∀ r, o = .fault r → o' = .fault r

namespace SameButFlags

theorem next {t t' : State} (h : t'.withFlags t.x86Flags t.armFlags = t) : SameButFlags (.next t) (.next t') := by
  refine ⟨?_, fun _ h => nomatch h⟩
  rintro _ ⟨⟩
  exact ⟨t', rfl, h⟩

theorem fault (r : Fault) : SameButFlags (.fault r) (.fault r) := ⟨fun _ h => (nomatch h), fun _ h => h⟩

/-- A load gives both runs the same word. -/
theorem attempt {α : Type} {r : Except Fault α} {k k' : α → StepOutcome} (hk : ∀ a, SameButFlags (k a) (k' a)) :
    SameButFlags (attempt r k) (attempt r k') := by
  cases r with
  | ok a => exact hk a
  | error f => exact fault f

/-- A store gives the second run the first one's state with the other flags. -/
theorem attempt_withFlags {r r' : Except Fault State} {k k' : State → StepOutcome} {f : X86Flags} {g : ArmFlags}
    (hr : r' = r.map (·.withFlags f g)) (hk : ∀ t, SameButFlags (k t) (k' (t.withFlags f g))) :
    SameButFlags (Machine.attempt r k) (Machine.attempt r' k') := by
  subst hr
  cases r with
  | ok t => exact hk t
  | error f => exact fault f

theorem transferAligned {s s' done done' : State} {target : Word} (hpc : s'.pc = s.pc)
    (h : (done'.jump target).withFlags done.x86Flags done.armFlags = done.jump target) :
    SameButFlags (transferAligned s target done) (transferAligned s' target done') := by
  unfold Machine.transferAligned
  rw [hpc]
  split
  · exact next h
  · exact fault _

end SameButFlags

/-- With other flags every instruction does the same but for the flags. -/
theorem exec_withFlags (i : Instr) (s : State) (f : X86Flags) (g : ArmFlags) :
    SameButFlags (exec i s) (exec i (s.withFlags f g)) := by
  cases i with
  | x86MovRI | x86MovRR | x86AddRR | x86SubRR | x86Int | x86Jmp | x86Nop => exact .next rfl
  | armMovRR | armMovRI | armAddRR | armAddsRR | armSubRR | armSubsRR | armB | armBL | armSvc => exact .next rfl
  | rvLui | rvAddi | rvAdd | rvSub | rvEcall => exact .next rfl
  | x86Pop | x86Ret | armPop | rvLw => exact .attempt fun _ => .next rfl
  | x86Push | x86Call => exact .attempt_withFlags (x86PushWord_withFlags s f g _) fun _ => .next rfl
  | armPush | rvSw => exact .attempt_withFlags (memWrite_withFlags s f g _ _) fun _ => .next rfl
  | armBxLr | rvJal | rvJalr => exact .transferAligned rfl rfl

/-- Settles O19: the flags go through the loads, stores and transfers of each instruction unread. -/
theorem noInstructionReadsAFlag : Obligations.NoInstructionReadsAFlag := exec_withFlags

end Sys2Proof.Machine
end

section
/-! SUPPORT. The state after construction and RESET (10_state R21, 70_reset_and_hazards R340). -/

namespace Sys2Proof.Machine

/-- A cell of a register file that is 0 but for its stack pointer. -/
theorem regs_get_replicate_set {n : Nat} (r q : Fin n) (x : Word) :
    ((Vector.replicate n (0 : Word)).set r x)[q] = if q = r then x else 0 := by
  rw [regs_get_set]
  simp

theorem construct_x86Get (cfg : Config) (q : X86Reg) :
    (State.construct cfg).x86Get q = if q = esp then cfg.spReset else 0 :=
  regs_get_replicate_set esp q cfg.spReset

theorem construct_armGet (cfg : Config) (q : ArmReg) :
    (State.construct cfg).armGet q = if q = armSp then cfg.spReset else 0 :=
  regs_get_replicate_set armSp q cfg.spReset

/-- x0 is not the stack pointer, so its 0 is the reset value of the other registers. -/
theorem construct_rvGet (cfg : Config) (q : RvReg) :
    (State.construct cfg).rvGet q = if q = rvSp then cfg.spReset else 0 := by
  unfold State.rvGet
  split
  next h => subst h; rfl
  next => exact regs_get_replicate_set rvSp q cfg.spReset

/-- R11's default stack pointer is the end of the default memory. -/
theorem default_spReset (arch : Arch) : (Config.default arch).spReset.toNat = (Config.default arch).memSize := rfl

/-- RESET of a present backend: the state of construction with the code buffer kept. -/
theorem hostReset_of_minimal {s : State} (h : s.cfg.variant = .minimal) :
    s.hostReset = .ok { State.construct s.cfg with code := s.code } := by
  simp [State.hostReset, State.guarded, h]

theorem hostReset_of_unimplemented {s : State} (h : s.cfg.variant = .unimplemented) :
    s.hostReset = .error (.fault (.notImplemented s.cfg.arch)) := by
  simp [State.hostReset, State.guarded, h]

/-- Settles O1: construction gives the reset values field by field, and RESET differs from it in the code buffer alone. -/
theorem resetLeavesEveryPieceAtItsResetValue : Obligations.ResetLeavesEveryPieceAtItsResetValue := by
  refine ⟨fun cfg => ⟨construct_x86Get cfg, construct_armGet cfg, construct_rvGet cfg, rfl, rfl, fun _ => rfl, rfl, rfl⟩,
    default_spReset, fun s => ⟨fun h => ?_, hostReset_of_unimplemented⟩⟩
  refine ⟨_, hostReset_of_minimal h, fun r => ?_, rfl, rfl, fun _ => rfl, rfl, rfl⟩
  cases r <;> rfl

theorem construct_inv (cfg : Config) : (State.construct cfg).Inv :=
  ⟨construct_mem_wf cfg, nofun, rfl, fun _ => rfl⟩

/-- Settles O2: memory is empty, the cell of x0 is not the stack pointer's, and the pc is 0. -/
theorem resetMeetsTheInvariant : Obligations.ResetMeetsTheInvariant := ⟨construct_inv, construct_inv _⟩

end Sys2Proof.Machine
end

section
/-! SUPPORT. Register writes as the host and the views see them (10_state R22 to R25, R36, R38). -/

namespace Sys2Proof.Machine

@[simp] theorem rvGet_zero (s : State) : s.rvGet 0 = 0 := rfl

/-- A write to x0 is discarded (R38). -/
@[simp] theorem rvSet_zero (s : State) (v : Word) : s.rvSet 0 v = s := rfl

/-- Settles O24, by the read-after-write lemmas of the RISC-V file; x0 is the case both the read and the write leave out. -/
theorem riscvZeroRegister : Obligations.RiscvZeroRegister := fun s _ v =>
  ⟨rvGet_zero s, rvSet_zero s v, fun hr => rvGet_rvSet_self s hr v, fun _ hq => rvGet_rvSet_ne s (by simpa using hq) v⟩

theorem view16_x86Set (s : State) (r q : X86Reg) (v : Word) :
    (s.x86Set r v).view16 q = if q = r then v.extractLsb' 0 16 else s.view16 q := by
  rw [State.view16, x86Get_x86Set, apply_ite (BitVec.extractLsb' 0 16)]
  rfl

theorem viewLow8_x86Set (s : State) (r : X86Reg) (b : ByteReg) (v : Word) :
    (s.x86Set r v).viewLow8 b = if b.wide = r then v.extractLsb' 0 8 else s.viewLow8 b := by
  rw [State.viewLow8, x86Get_x86Set, apply_ite (BitVec.extractLsb' 0 8)]
  rfl

theorem viewHigh8_x86Set (s : State) (r : X86Reg) (b : ByteReg) (v : Word) :
    (s.x86Set r v).viewHigh8 b = if b.wide = r then v.extractLsb' s.cfg.high8Lsb.toNat 8 else s.viewHigh8 b := by
  rw [State.viewHigh8, x86Get_x86Set, apply_ite (BitVec.extractLsb' _ 8)]
  rfl

/-- Settles O25: every view reads the cell of its 32-bit register. -/
theorem viewsFollowTheWideRegister : Obligations.ViewsFollowTheWideRegister := by
  refine ⟨fun _ => rfl, fun s r v => ⟨fun q => view16_x86Set s r q v, fun b => viewLow8_x86Set s r b v, fun b => ?_⟩⟩
  rw [viewHigh8_x86Set]
  cases s.cfg.high8Lsb <;> rfl

end Sys2Proof.Machine
end

section
/-! SUPPORT. A word stored and loaded back, and the bounds of an access (20_memory R61 to R65). -/

namespace Sys2Proof.Machine

/-- A word is its four bytes, the most significant first. -/
theorem append_bytes (v : Word) :
    v.extractLsb' 24 8 ++ v.extractLsb' 16 8 ++ v.extractLsb' 8 8 ++ v.extractLsb' 0 8 = v := by
  rw [BitVec.extractLsb'_append_extractLsb'_eq_extractLsb' (start₁ := 16) (len₁ := 8) rfl,
    BitVec.extractLsb'_append_extractLsb'_eq_extractLsb' (start₁ := 8) (len₁ := 8) rfl,
    BitVec.extractLsb'_append_extractLsb'_eq_extractLsb' (start₁ := 0) (len₁ := 8) rfl]
  exact BitVec.extractLsb'_eq_self

/-- Four bytes that hold a word are read as that word. -/
theorem HoldsWord.wordIn_eq {t : State} {addr v : Word} (h : HoldsWord t addr v) : wordIn t addr = v := by
  obtain ⟨h0, h1, h2, h3⟩ := h
  rw [wordIn, h0, h1, h2, h3, append_bytes]

section
variable {s t : State} {addr v : Word}

/-- The four bytes after a word write, whatever else of the state changed. -/
theorem holdsWord_of_writeWord (hs : s.mem.wf) (ht : t.mem = s.mem.writeWord addr.toNat v) : HoldsWord t addr v := by
  simp [HoldsWord, ht, read_writeWord hs]

/-- A word write leaves the bytes outside its four addresses, whatever else of the state changed. -/
theorem sameMemoryOutside_of_writeWord (hs : s.mem.wf) (ht : t.mem = s.mem.writeWord addr.toNat v) :
    SameMemoryOutside addr s t := by
  intro b hb
  have h3 : b ≠ addr.toNat + 3 := by omega
  have h2 : b ≠ addr.toNat + 2 := by omega
  have h1 : b ≠ addr.toNat + 1 := by omega
  have h0 : b ≠ addr.toNat := by omega
  rw [ht, read_writeWord hs, if_neg h3, if_neg h2, if_neg h1, if_neg h0]

end

/-- Settles O4: an answered store is a word write in bounds, so the load is in bounds too and appends the four bytes again. -/
theorem storeThenLoadGivesTheWord : Obligations.StoreThenLoadGivesTheWord := by
  intro s t addr v hs hstore
  obtain ⟨hin, rfl⟩ := memWrite_eq_ok.mp hstore
  have hword : HoldsWord (s.setMem (s.mem.writeWord addr.toNat v)) addr v := holdsWord_of_writeWord hs rfl
  exact ⟨hword, sameMemoryOutside_of_writeWord hs rfl, memRead_eq_ok.mpr ⟨hin, hword.wordIn_eq⟩⟩

theorem inBounds_iff {s : State} {addr : Word} {n : Nat} :
    s.inBounds addr n = true ↔ addr.toNat + n ≤ s.cfg.memSize := decide_eq_true_iff

/-- Settles O5, by what each access answers on each side of the bound; 0xFFFFFFFE does not wrap, so its four bytes end at
2^32 + 2. -/
theorem accessOutOfBoundsRaises : Obligations.AccessOutOfBoundsRaises := by
  intro s addr v
  refine ⟨fun _ => inBounds_iff, fun hin => ?_, fun hout => ?_, fun htop => ?_⟩
  · exact ⟨memRead_eq_ok.mpr ⟨hin, rfl⟩, _, memWrite_eq_ok.mpr ⟨hin, rfl⟩⟩
  · exact ⟨memRead_eq_error.mpr ⟨hout, rfl⟩, memWrite_eq_error.mpr ⟨hout, rfl⟩⟩
  · exact memRead_eq_error.mpr ⟨htop, rfl⟩

end Sys2Proof.Machine
end

section
/-! SUPPORT. The x86 decode on its bytes (30_encoding R83 to R90): a row looks at bytes 0 and 1 alone, no two rows match the same
bytes, and a row that matches gives its instruction. -/

namespace Sys2Proof

/-! ## The fields of the window -/

section
variable (bytes : List Byte)

theorem x86Imm32_x86Window : x86Imm32 (x86Window bytes) = wordAt bytes 1 := BitVec.extractLsb'_append_eq_left

/-- Byte 0 is the low byte of the window. -/
theorem extractLsb'_x86Window_of_byte0 {lo len : Nat} (h : lo + len ≤ 8) :
    (x86Window bytes).extractLsb' lo len = (byteAt bytes 0).extractLsb' lo len :=
  BitVec.extractLsb'_append_eq_of_add_le h

/-- Byte 1 is the next one. -/
theorem extractLsb'_x86Window_of_byte1 {lo len : Nat} (h : lo + len ≤ 8) :
    (x86Window bytes).extractLsb' (8 + lo) len = (byteAt bytes 1).extractLsb' lo len := by
  rw [x86Window, BitVec.extractLsb'_append_eq_of_le (Nat.le_add_right 8 lo), Nat.add_sub_cancel_left, wordAt,
    BitVec.extractLsb'_append_eq_of_add_le h]

end

/-! ## The match test -/

/-- A window is its upper three bytes, byte 1 and byte 0. -/
theorem append_window_parts (w : BitVec 40) : w.extractLsb' 16 24 ++ w.extractLsb' 8 8 ++ w.extractLsb' 0 8 = w := by
  rw [BitVec.extractLsb'_append_extractLsb'_eq_extractLsb' (start₁ := 8) (len₁ := 8) rfl,
    BitVec.extractLsb'_append_extractLsb'_eq_extractLsb' (start₁ := 0) (len₁ := 8) rfl]
  exact BitVec.extractLsb'_eq_self

theorem x86Rows_ignore_upper_bytes :
    ∀ r ∈ x86Rows, r.mask.extractLsb' 16 24 = 0#24 ∧ r.value.extractLsb' 16 24 = 0#24 := by decide

/-- The match test of an x86 row on bytes 0 and 1. -/
theorem x86Row_hits_iff {r : Row 40} (hr : r ∈ x86Rows) (bytes : List Byte) :
    r.hits (x86Window bytes) = true ↔
      byteAt bytes 0 &&& r.mask.extractLsb' 0 8 = r.value.extractLsb' 0 8 ∧
        byteAt bytes 1 &&& r.mask.extractLsb' 8 8 = r.value.extractLsb' 8 8 := by
  obtain ⟨hmask, hvalue⟩ := x86Rows_ignore_upper_bytes r hr
  have low : (x86Window bytes).extractLsb' 0 8 = byteAt bytes 0 := BitVec.extractLsb'_append_eq_right
  have next : (x86Window bytes).extractLsb' 8 8 = byteAt bytes 1 :=
    (extractLsb'_x86Window_of_byte1 bytes (lo := 0) (Nat.le_refl 8)).trans BitVec.extractLsb'_eq_self
  rw [← low, ← next, ← BitVec.extractLsb'_and, ← BitVec.extractLsb'_and, Row.hits, beq_iff_eq]
  refine ⟨fun h => by rw [h]; exact ⟨rfl, rfl⟩, fun ⟨h0, h1⟩ => ?_⟩
  rw [← append_window_parts (_ &&& _), h0, h1, BitVec.extractLsb'_and, hmask, BitVec.and_zero, ← hvalue,
    append_window_parts]

/-! ## One row at most -/

/-- Two rows ask for different values of a bit that both of them look at. -/
def Row.Conflicts {n : Nat} (r q : Row n) : Prop := r.mask &&& q.mask &&& (r.value ^^^ q.value) ≠ 0

theorem Row.Conflicts.not_hits_both {n : Nat} {r q : Row n} (h : r.Conflicts q) (w : BitVec n) :
    ¬(r.hits w = true ∧ q.hits w = true) := by
  rintro ⟨hr, hq⟩
  simp only [Row.hits, beq_iff_eq] at hr hq
  apply h
  rw [← hr, ← hq]
  ext k hk
  simp +contextual

/-- R83 for the x86 table: no two rows match the same bytes. -/
theorem x86Rows_disjoint : x86Rows.Pairwise fun r q => ∀ w, ¬(r.hits w = true ∧ q.hits w = true) :=
  List.Pairwise.imp Row.Conflicts.not_hits_both (by unfold Row.Conflicts; decide)

/-- A row that matches is the only one, so a table of disjoint rows decodes by it. -/
theorem decodeRows_of_disjoint {n : Nat} {rows : List (Row n)}
    (hd : rows.Pairwise fun r q => ∀ w, ¬(r.hits w = true ∧ q.hits w = true)) {r : Row n} (hr : r ∈ rows)
    {w : BitVec n} (hit : r.hits w = true) : decodeRows rows w = r.build w := by
  have only : ∀ q ∈ rows, ∀ p ∈ rows, q.hits w = true → p.hits w = true → q = p :=
    List.Pairwise.forall_of_forall_of_flip (fun _ _ _ _ => rfl)
      (hd.imp fun h hq hp => absurd ⟨hq, hp⟩ (h w)) (hd.imp fun h hp hq => absurd ⟨hq, hp⟩ (h w))
  exact decodeRows_of_only hr hit fun q hq hitq => only q hq r hr hitq hit

/-! ## The decode -/

section
variable {bytes : List Byte}

/-- A row whose value bytes 0 and 1 have under its mask gives its instruction. -/
theorem decodeBytes_x86_of_row {r : Row 40} {i : Instr} (hr : r ∈ x86Rows)
    (h0 : byteAt bytes 0 &&& r.mask.extractLsb' 0 8 = r.value.extractLsb' 0 8)
    (h1 : byteAt bytes 1 &&& r.mask.extractLsb' 8 8 = r.value.extractLsb' 8 8)
    (hb : r.build (x86Window bytes) = some i) : decodeBytes .x86 bytes = .instr i :=
  decodeBytes_eq_instr.mpr ((decodeRows_of_disjoint x86Rows_disjoint hr ((x86Row_hits_iff hr bytes).mpr ⟨h0, h1⟩)).trans hb)

/-- Bytes that no row matches are the unmatched record with byte 0 as its opcode (R92). -/
theorem decodeBytes_x86_of_no_row (h : ∀ r ∈ x86Rows, r.hits (x86Window bytes) ≠ true) :
    decodeBytes .x86 bytes = .unmatched ((byteAt bytes 0).zeroExtend 32) := by
  have hnone : decodeInstr .x86 bytes = none := List.findSome?_eq_none_iff.mpr fun r hr => if_neg (h r hr)
  rw [decodeBytes, hnone]
  rfl

/-! ## The register-direct opcodes (R85): MOV_RR, ADD_RR and SUB_RR differ in byte 0 alone -/

/-- Every row whose test of byte 0 accepts a register-direct opcode asks for mode 0b11 in byte 1. -/
theorem x86Rows_taking_modRm_opcode :
    ∀ r ∈ x86Rows, r.mask = 0xC0FF → ∀ q ∈ x86Rows,
      r.value.extractLsb' 0 8 &&& q.mask.extractLsb' 0 8 = q.value.extractLsb' 0 8 →
        q.mask.extractLsb' 8 8 = 0xC0 ∧ q.value.extractLsb' 8 8 = 0xC0 := by decide

/-- The ModRM byte 0xC0 + 8·s + d has mod = 0b11, rm = d and reg = s. -/
theorem modRm_fields : ∀ d s : X86Reg,
    BitVec.ofNat 8 (0xC0 + 8 * s.val + d.val) &&& 0xC0 = 0xC0 ∧
      ((BitVec.ofNat 8 (0xC0 + 8 * s.val + d.val)).extractLsb' 0 3).toFin = d ∧
      ((BitVec.ofNat 8 (0xC0 + 8 * s.val + d.val)).extractLsb' 3 3).toFin = s := by decide

/-- A register-direct opcode and its ModRM byte decode to the instruction of the two registers. -/
theorem decodeBytes_modRm {value : BitVec 40} {k : X86Reg → X86Reg → Instr}
    (hr : ⟨value, 0xC0FF, fun w => some (k (x86Field w 8) (x86Field w 11))⟩ ∈ x86Rows) {d s : X86Reg}
    (h0 : byteAt bytes 0 = value.extractLsb' 0 8) (h1 : byteAt bytes 1 = BitVec.ofNat 8 (0xC0 + 8 * s.val + d.val)) :
    decodeBytes .x86 bytes = .instr (k d s) := by
  obtain ⟨hmod, hrm, hreg⟩ := modRm_fields d s
  rw [← h1] at hmod hrm hreg
  have hop : value.extractLsb' 0 8 &&& (0xC0FF#40).extractLsb' 0 8 = value.extractLsb' 0 8 := BitVec.and_allOnes
  obtain ⟨hmask, hvalue⟩ := x86Rows_taking_modRm_opcode _ hr rfl _ hr hop
  have hd : x86Field (x86Window bytes) 8 = d :=
    (congrArg BitVec.toFin (extractLsb'_x86Window_of_byte1 bytes (lo := 0) (by decide))).trans hrm
  have hs : x86Field (x86Window bytes) 11 = s :=
    (congrArg BitVec.toFin (extractLsb'_x86Window_of_byte1 bytes (lo := 3) (by decide))).trans hreg
  refine decodeBytes_x86_of_row hr ?_ ?_ (congrArg some (congr (congrArg k hd) hs))
  · rw [h0]
    exact hop
  · rw [hmask, hvalue]
    exact hmod

/-- With another mode a register-direct opcode is unmatched. -/
theorem decodeBytes_modRm_unmatched {r : Row 40} (hr : r ∈ x86Rows) (hmask : r.mask = 0xC0FF)
    (h0 : byteAt bytes 0 = r.value.extractLsb' 0 8) (h1 : byteAt bytes 1 &&& 0xC0 ≠ 0xC0) :
    decodeBytes .x86 bytes = .unmatched ((r.value.extractLsb' 0 8).zeroExtend 32) := by
  rw [← h0]
  refine decodeBytes_x86_of_no_row fun q hq hit => h1 ?_
  obtain ⟨hq0, hq1⟩ := (x86Row_hits_iff hq bytes).mp hit
  obtain ⟨hqmask, hqvalue⟩ := x86Rows_taking_modRm_opcode r hr hmask q hq (h0 ▸ hq0)
  rwa [hqmask, hqvalue] at hq1

end

end Sys2Proof
end

section
/-! SUPPORT. x86 data movement (40_x86_move R140, R141): what a MOV decodes from and what it leaves unchanged. -/

namespace Sys2Proof.Machine

/-- An x86 change that leaves memory keeps everything but the x86 registers, the x86 flags and the pc. -/
theorem ChangesOnly.x86Frame {s t : State} (h : ChangesOnly .x86 s t) (hmem : t.mem = s.mem) : X86Frame s t := by
  obtain ⟨inputs, -, arm, riscv⟩ := h
  obtain ⟨harm, hflags⟩ := arm nofun
  refine ⟨inputs, fun b => by rw [hmem], fun q _ => ?_, hflags, fun q _ => ?_⟩
  · rw [State.armGet, harm, State.armGet]
  · rw [State.rvGet, riscv nofun, State.rvGet]

theorem sameX86But_x86Set_advance (s : State) (r : X86Reg) (v n : Word) : SameX86But [r] s ((s.x86Set r v).advance n) :=
  fun _ hq => x86Get_x86Set_ne s (List.ne_of_not_mem_cons hq) v

/-- A MOV writes one register and goes on to the next instruction. -/
theorem mov_result (s : State) (r : X86Reg) (v n : Word) :
    ∃ t, (.next ((s.x86Set r v).advance n) : StepOutcome) = .next t ∧
      t.x86Get r = v ∧ SameX86But [r] s t ∧ t.x86Flags = s.x86Flags ∧ t.pc = s.pc + n ∧ X86Frame s t :=
  ⟨_, rfl, x86Get_x86Set_self s r v, sameX86But_x86Set_advance s r v n, rfl, rfl,
    ChangesOnly.refl.x86Set.advance.x86Frame rfl⟩

/-- The opcode byte 0xB8 + r of MOV_RI selects the row by its upper five bits and the register by its lower three. -/
theorem movImmediate_opcode : ∀ r : X86Reg,
    BitVec.ofNat 8 (0xB8 + r.val) &&& 0xF8 = 0xB8 ∧ ((BitVec.ofNat 8 (0xB8 + r.val)).extractLsb' 0 3).toFin = r := by
  decide

theorem decodeBytes_movImmediate {r : X86Reg} {bytes : List Byte}
    (h : byteAt bytes 0 = BitVec.ofNat 8 (0xB8 + r.val)) :
    decodeBytes .x86 bytes = .instr (.x86MovRI r (wordAt bytes 1)) := by
  obtain ⟨hop, hreg⟩ := movImmediate_opcode r
  rw [← h] at hop hreg
  have hr : x86Field (x86Window bytes) 0 = r :=
    (congrArg BitVec.toFin (extractLsb'_x86Window_of_byte0 bytes (by decide))).trans hreg
  exact decodeBytes_x86_of_row List.mem_cons_self hop BitVec.and_zero
    (congrArg some (congr (congrArg Instr.x86MovRI hr) (x86Imm32_x86Window bytes)))

/-- Settles O26: byte 0 names the row and the register, bytes 1 to 4 are the immediate, and the execution writes that
register alone. -/
theorem x86MovImmediate : Obligations.X86MovImmediate :=
  ⟨fun _ _ => decodeBytes_movImmediate, fun r imm32 s => mov_result s r imm32 5⟩

theorem movRegisterRow_mem : ⟨0xC089, 0xC0FF, fun w => some (.x86MovRR (x86Field w 8) (x86Field w 11))⟩ ∈ x86Rows :=
  .tail _ (.head _)

/-- Settles O27: MOV_RR is a register-direct row, and the execution writes the destination alone, with the source as it was
before. -/
theorem x86MovRegister : Obligations.X86MovRegister :=
  ⟨fun _ _ _ => decodeBytes_modRm movRegisterRow_mem rfl rfl,
    fun _ => decodeBytes_modRm_unmatched movRegisterRow_mem rfl,
    fun d src s => mov_result s d (s.x86Get src) 2⟩

end Sys2Proof.Machine
end

section
/-! SUPPORT. The flag engine (41_x86_arith R150, R152, R156): what each flag predicate says, signed overflow both by the signs and
by the range of the exact result. -/

namespace Sys2Proof.Machine

/-- PF is set when the low byte of the result has an even number of one bits (R150). -/
theorem parityFlag_iff {res : Word} : parityFlag res = true ↔ popcount (res.extractLsb' 0 8) % 2 = 0 := beq_iff_eq

theorem addOverflow_iff {a b res : Word} : addOverflow a b res = true ↔ a.msb = b.msb ∧ res.msb ≠ a.msb := by
  rw [addOverflow, Bool.and_eq_true, beq_iff_eq, bne_iff_ne]

theorem subOverflow_iff {a b res : Word} : subOverflow a b res = true ↔ a.msb ≠ b.msb ∧ res.msb ≠ a.msb := by
  rw [subOverflow, Bool.and_eq_true, bne_iff_ne, bne_iff_ne]

/-- The sign formula of addition is the library's signed overflow, which speaks of the exact sum. -/
theorem addOverflow_eq_saddOverflow (a b : Word) : addOverflow a b (a + b) = a.saddOverflow b :=
  (BitVec.saddOverflow_eq a b).symm

/-- The sign formula of subtraction is the library's signed overflow, which speaks of the exact difference. -/
theorem subOverflow_eq_ssubOverflow (a b : Word) : subOverflow a b (a - b) = a.ssubOverflow b := by
  rw [BitVec.ssubOverflow_eq, subOverflow]
  cases a.msb <;> cases b.msb <;> simp

/-- An addition overflows exactly when the signed sum has no 32-bit word (R152). -/
theorem addOverflow_add_iff {a b : Word} :
    addOverflow a b (a + b) = true ↔ ¬(-2 ^ 31 ≤ a.toInt + b.toInt ∧ a.toInt + b.toInt ≤ 2 ^ 31 - 1) := by
  rw [addOverflow_eq_saddOverflow, BitVec.saddOverflow, Bool.or_eq_true, decide_eq_true_iff, decide_eq_true_iff]
  omega

/-- A subtraction overflows exactly when the signed difference has no 32-bit word (R156). -/
theorem subOverflow_sub_iff {a b : Word} :
    subOverflow a b (a - b) = true ↔ ¬(-2 ^ 31 ≤ a.toInt - b.toInt ∧ a.toInt - b.toInt ≤ 2 ^ 31 - 1) := by
  rw [subOverflow_eq_ssubOverflow, BitVec.ssubOverflow, Bool.or_eq_true, decide_eq_true_iff, decide_eq_true_iff]
  omega

/-- The difference modulo 2^32 of the unsigned values. -/
theorem ofInt_toNat_sub_toNat (a b : Word) : BitVec.ofInt 32 ((a.toNat : Int) - (b.toNat : Int)) = a - b := by
  rw [← BitVec.toInt_inj, BitVec.toInt_ofInt, BitVec.toInt_sub, BitVec.toInt_eq_toNat_bmod, BitVec.toInt_eq_toNat_bmod,
    Int.bmod_sub_bmod, Int.sub_bmod_bmod]

end Sys2Proof.Machine
end

section
/-! SUPPORT. x86 ADD and SUB (41_x86_arith R151 to R156): what they decode from, the five flags and the frame. -/

namespace Sys2Proof.Machine

/-- ADD and SUB write one register and the five flags together, and go on to the next instruction. -/
theorem arith_result (s : State) (d : X86Reg) (res : Word) (f : X86Flags) :
    ∃ t, (.next (((s.x86Set d res).setX86Flags f).advance 2) : StepOutcome) = .next t ∧
      t.x86Get d = res ∧ SameX86But [d] s t ∧ t.x86Flags = f ∧ t.pc = s.pc + 2 ∧ X86Frame s t :=
  ⟨_, rfl, x86Get_x86Set_self s d res, fun _ hq => x86Get_x86Set_ne s (List.ne_of_not_mem_cons hq) res, rfl, rfl,
    ChangesOnly.refl.x86Set.setX86Flags.advance.x86Frame rfl⟩

theorem addRow_mem : ⟨0xC001, 0xC0FF, fun w => some (.x86AddRR (x86Field w 8) (x86Field w 11))⟩ ∈ x86Rows :=
  .tail _ (.tail _ (.head _))

theorem subRow_mem : ⟨0xC029, 0xC0FF, fun w => some (.x86SubRR (x86Field w 8) (x86Field w 11))⟩ ∈ x86Rows :=
  .tail _ (.tail _ (.tail _ (.head _)))

/-- Settles O28: ADD_RR is a register-direct row, and its flags are those of the sum; the sign formula of OF says that the signed
sum is out of range. -/
theorem x86AddWithFlags : Obligations.X86AddWithFlags := by
  refine ⟨fun _ _ _ => decodeBytes_modRm addRow_mem rfl rfl, fun _ => decodeBytes_modRm_unmatched addRow_mem rfl,
    fun d src s => ?_⟩
  intro a b res
  obtain ⟨t, hnext, hget, hregs, hflags, hpc, hframe⟩ := arith_result s d res (x86AddFlags a b)
  refine ⟨t, hnext, hget, hregs, ?_⟩
  rw [hflags]
  exact ⟨decide_eq_true_iff, addOverflow_iff, addOverflow_add_iff, beq_iff_eq, Iff.rfl, parityFlag_iff, hpc, hframe⟩

/-- Settles O29: SUB_RR is a register-direct row, and its flags are those of the difference; the sign formula of OF says that the
signed difference is out of range. -/
theorem x86SubWithFlags : Obligations.X86SubWithFlags := by
  refine ⟨fun _ _ _ => decodeBytes_modRm subRow_mem rfl rfl, fun _ => decodeBytes_modRm_unmatched subRow_mem rfl,
    fun d src s => ?_⟩
  intro a b res
  have hres : res = a - b := ofInt_toNat_sub_toNat a b
  obtain ⟨t, hnext, hget, hregs, hflags, hpc, hframe⟩ := arith_result s d (a - b) (x86SubFlags a b)
  refine ⟨t, hnext, hget.trans hres.symm, hregs, ?_⟩
  rw [hflags, hres]
  exact ⟨decide_eq_true_iff, subOverflow_iff, subOverflow_sub_iff, beq_iff_eq, Iff.rfl, parityFlag_iff, hpc, hframe⟩

end Sys2Proof.Machine
end

section
/-! SUPPORT. The x86 opcodes without a ModRM byte (30_encoding R86, R87, R90): byte 0 alone selects the row; its lower three bits
may name a register, and bytes 1 to 4 may hold a displacement. -/

namespace Sys2Proof

section
variable {bytes : List Byte}

/-- A row that does not look at byte 1 asks nothing of it. -/
theorem x86Rows_ignore_byte1 :
    ∀ r ∈ x86Rows, r.mask.extractLsb' 8 8 = 0#8 → r.value.extractLsb' 8 8 = 0#8 := by decide

/-- A row that does not look at byte 1 gives its instruction by byte 0 alone. -/
theorem decodeBytes_x86_of_byte0 {r : Row 40} {i : Instr} (hr : r ∈ x86Rows) (hmask : r.mask.extractLsb' 8 8 = 0#8)
    (h0 : byteAt bytes 0 &&& r.mask.extractLsb' 0 8 = r.value.extractLsb' 0 8)
    (hb : r.build (x86Window bytes) = some i) : decodeBytes .x86 bytes = .instr i :=
  decodeBytes_x86_of_row hr h0 (by rw [hmask, x86Rows_ignore_byte1 r hr hmask, BitVec.and_zero]) hb

/-- An opcode that fills byte 0 gives its row's instruction. -/
theorem decodeBytes_opcodeByte {value : BitVec 40} {build : BitVec 40 → Option Instr} {i : Instr}
    (hr : ⟨value, 0xFF, build⟩ ∈ x86Rows) (h0 : byteAt bytes 0 = value.extractLsb' 0 8)
    (hb : build (x86Window bytes) = some i) : decodeBytes .x86 bytes = .instr i :=
  decodeBytes_x86_of_byte0 hr (by simp) (h0 ▸ BitVec.and_allOnes) hb

/-- An opcode with a displacement takes it from bytes 1 to 4 (R87). -/
theorem decodeBytes_disp32 {value : BitVec 40} {k : Word → Instr}
    (hr : ⟨value, 0xFF, fun w => some (k (x86Imm32 w))⟩ ∈ x86Rows) (h0 : byteAt bytes 0 = value.extractLsb' 0 8) :
    decodeBytes .x86 bytes = .instr (k (wordAt bytes 1)) :=
  decodeBytes_opcodeByte hr h0 (congrArg (some <| k ·) (x86Imm32_x86Window bytes))

/-- The bytes 50+r of PUSH and 58+r of POP: the upper five bits are the opcode's, the lower three the register's (R86). -/
theorem stackOpcode_fields : ∀ op ∈ [0x50, 0x58], ∀ r : X86Reg,
    BitVec.ofNat 8 (op + r.val) &&& 0xF8 = BitVec.ofNat 8 op ∧
      ((BitVec.ofNat 8 (op + r.val)).extractLsb' 0 3).toFin = r := by decide

/-- PUSH and POP decode to the instruction of the register in byte 0. -/
theorem decodeBytes_stackOpcode {value : BitVec 40} {op : Nat} {k : X86Reg → Instr} {r : X86Reg}
    (hr : ⟨value, 0xF8, fun w => some (k (x86Field w 0))⟩ ∈ x86Rows) (hop : op ∈ [0x50, 0x58])
    (hvalue : value.extractLsb' 0 8 = BitVec.ofNat 8 op)
    (h0 : byteAt bytes 0 = BitVec.ofNat 8 (op + r.val)) : decodeBytes .x86 bytes = .instr (k r) := by
  obtain ⟨hfield, hreg⟩ := stackOpcode_fields op hop r
  rw [← h0] at hfield hreg
  have hr0 : x86Field (x86Window bytes) 0 = r :=
    (congrArg BitVec.toFin (extractLsb'_x86Window_of_byte0 bytes (by decide))).trans hreg
  exact decodeBytes_x86_of_byte0 hr (by simp) (hfield.trans hvalue.symm) (congrArg (some <| k ·) hr0)

end

end Sys2Proof
end

section
/-! SUPPORT. The x86 stack and control transfers (42_x86_stack_control R170 to R175): PUSH and CALL are one push that differs in
the word and the pc, POP and RET one load at esp. -/

namespace Sys2Proof.Machine

/-- The frame of a store is the frame of the same change with memory put back, and the bytes outside the slot. -/
theorem ChangesOnly.x86StoreFrame {s t : State} {addr : Word} (h : ChangesOnly .x86 s t)
    (hmem : SameMemoryOutside addr s t) : X86StoreFrame addr s t := by
  obtain ⟨inputs, -, nonX86⟩ := (h.setMem (m := s.mem)).x86Frame rfl
  exact ⟨inputs, hmem, nonX86⟩

/-- A push whose slot is in bounds: the word is in the slot, esp is at it, and nothing else has changed. -/
theorem x86PushWord_result {s : State} (hs : s.mem.wf) (v : Word)
    (hin : (s.x86Get esp - 4).toNat + 4 ≤ s.cfg.memSize) :
    ∃ u, s.x86PushWord v = .ok u ∧ HoldsWord u (s.x86Get esp - 4) v ∧ u.x86Get esp = s.x86Get esp - 4 ∧
      SameX86But [esp] s u ∧ u.x86Flags = s.x86Flags ∧ u.pc = s.pc ∧ X86StoreFrame (s.x86Get esp - 4) s u :=
  ⟨_, x86PushWord_eq_ok.mpr ⟨hin, rfl⟩, holdsWord_of_writeWord hs rfl, x86Get_x86Set_self _ esp _,
    fun _ hq => x86Get_x86Set_ne _ (List.ne_of_not_mem_cons hq) _, rfl, rfl,
    ChangesOnly.refl.setMem.x86Set.x86StoreFrame (sameMemoryOutside_of_writeWord hs rfl)⟩

/-- A push whose slot is out of bounds raises before what follows it. -/
theorem attempt_x86PushWord_of_out {s : State} (v : Word) (k : State → StepOutcome)
    (hout : s.cfg.memSize < (s.x86Get esp - 4).toNat + 4) :
    attempt (s.x86PushWord v) k = .fault (.memoryOutOfBounds (s.x86Get esp - 4) 4 s.pc) :=
  attempt_eq_fault.mpr (.inl (x86PushWord_eq_error.mpr ⟨hout, rfl⟩))

/-- A load in bounds goes on with the word at its address. -/
theorem attempt_memRead_of_in {s : State} {addr : Word} (k : Word → StepOutcome)
    (hin : addr.toNat + 4 ≤ s.cfg.memSize) : attempt (s.memRead addr) k = k (wordIn s addr) := by
  rw [memRead_eq_ok.mpr ⟨hin, rfl⟩, attempt_ok, wordIn, Memory.readWord]

/-- A load out of bounds raises before what follows it. -/
theorem attempt_memRead_of_out {s : State} {addr : Word} (k : Word → StepOutcome)
    (hout : s.cfg.memSize < addr.toNat + 4) :
    attempt (s.memRead addr) k = .fault (.memoryOutOfBounds addr 4 s.pc) :=
  attempt_eq_fault.mpr (.inl (memRead_eq_error.mpr ⟨hout, rfl⟩))

/-! ## PUSH and CALL -/

theorem pushRow_mem : ⟨0x50, 0xF8, fun w => some (.x86Push (x86Field w 0))⟩ ∈ x86Rows :=
  .tail _ (.tail _ (.tail _ (.tail _ (.head _))))

theorem callRow_mem : ⟨0xE8, 0xFF, fun w => some (.x86Call (x86Imm32 w))⟩ ∈ x86Rows :=
  .tail _ (.tail _ (.tail _ (.tail _ (.tail _ (.tail _ (.tail _ (.tail _ (.tail _ (.head _)))))))))

/-- Settles O30: byte 0 names the row and the register, and the execution is a push of the register's old value and the
advance. -/
theorem x86Push : Obligations.X86Push := by
  refine ⟨fun _ _ => decodeBytes_stackOpcode pushRow_mem List.mem_cons_self rfl rfl, fun r s hs => ?_⟩
  refine ⟨fun hin => ?_, attempt_x86PushWord_of_out (s.x86Get r) _⟩
  obtain ⟨u, hu, hword, hesp, hregs, hflags, hpc, hframe⟩ := x86PushWord_result hs (s.x86Get r) hin
  exact ⟨u.advance 1, attempt_eq_next.mpr ⟨u, hu, rfl⟩, hword, hesp, hregs, hflags, congrArg (· + 1) hpc, hframe⟩

/-- Settles O33: byte 0 names the row, bytes 1 to 4 are the displacement, and the execution is a push of pc + 5 and the jump to
the target. -/
theorem x86Call : Obligations.X86Call := by
  refine ⟨fun _ => decodeBytes_disp32 callRow_mem, fun disp32 s hs => ?_⟩
  refine ⟨fun hin => ?_, attempt_x86PushWord_of_out (s.pc + 5) _⟩
  obtain ⟨u, hu, hword, hesp, hregs, hflags, -, hframe⟩ := x86PushWord_result hs (s.pc + 5) hin
  exact ⟨u.jump (x86Target s.pc disp32), attempt_eq_next.mpr ⟨u, hu, rfl⟩, hword, hesp, hregs, hflags, rfl, hframe⟩

/-! ## POP and RET -/

theorem popRow_mem : ⟨0x58, 0xF8, fun w => some (.x86Pop (x86Field w 0))⟩ ∈ x86Rows :=
  .tail _ (.tail _ (.tail _ (.tail _ (.tail _ (.head _)))))

theorem retRow_mem : ⟨0xC3, 0xFF, fun _ => some .x86Ret⟩ ∈ x86Rows :=
  .tail _ (.tail _ (.tail _ (.tail _ (.tail _ (.tail _ (.head _))))))

/-- Settles O31: byte 0 names the row and the register, and the execution loads the word at esp; esp is written first, so the
register keeps the word even when it is esp. -/
theorem x86Pop : Obligations.X86Pop := by
  refine ⟨fun _ _ => decodeBytes_stackOpcode popRow_mem (by decide) rfl rfl, fun r s => ?_⟩
  refine ⟨fun hin => ?_, attempt_memRead_of_out _⟩
  refine ⟨_, attempt_memRead_of_in _ hin, x86Get_x86Set_self _ r _, fun hr => ?_, fun q hq => ?_, rfl, rfl,
    ChangesOnly.refl.x86Set.x86Set.advance.x86Frame rfl⟩
  · exact (x86Get_x86Set_ne _ hr.symm _).trans (x86Get_x86Set_self s esp _)
  · have hqr : q ≠ r := List.ne_of_not_mem_cons (List.not_mem_of_not_mem_cons hq)
    exact (x86Get_x86Set_ne _ hqr _).trans (x86Get_x86Set_ne s (List.ne_of_not_mem_cons hq) _)

/-- Settles O34: byte 0 names the row, and the execution loads the word at esp into the pc and moves esp past it. -/
theorem x86Ret : Obligations.X86Ret := by
  refine ⟨fun _ => decodeBytes_opcodeByte retRow_mem rfl rfl, fun s => ⟨fun hin => ?_, attempt_memRead_of_out _⟩⟩
  exact ⟨_, attempt_memRead_of_in _ hin, rfl, x86Get_x86Set_self s esp _,
    fun _ hq => x86Get_x86Set_ne s (List.ne_of_not_mem_cons hq) _, rfl, ChangesOnly.refl.x86Set.jump.x86Frame rfl⟩

/-! ## JMP -/

theorem jmpRow_mem : ⟨0xE9, 0xFF, fun w => some (.x86Jmp (x86Imm32 w))⟩ ∈ x86Rows :=
  .tail _ (.tail _ (.tail _ (.tail _ (.tail _ (.tail _ (.tail _ (.tail _ (.head _))))))))

/-- Settles O35: byte 0 names the row, bytes 1 to 4 are the displacement, and the execution writes the pc alone. -/
theorem x86Jmp : Obligations.X86Jmp :=
  ⟨fun _ => decodeBytes_disp32 jmpRow_mem,
    fun _ _ => ⟨_, rfl, rfl, fun _ _ => rfl, rfl, ChangesOnly.refl.jump.x86Frame rfl⟩⟩

/-! ## A push and a pop -/

/-- A pop after a push of the same register finds the register's value in the slot and moves esp back. -/
theorem pushThenPop_restores (r : X86Reg) {s : State} (hs : s.mem.wf)
    (hin : (s.x86Get esp - 4).toNat + 4 ≤ s.cfg.memSize) :
    ∃ t u, exec (.x86Push r) s = .next t ∧ exec (.x86Pop r) t = .next u ∧ SameX86But [] s u ∧
      u.x86Flags = s.x86Flags := by
  obtain ⟨-, hpush⟩ := x86Push
  obtain ⟨-, hpop⟩ := x86Pop
  obtain ⟨t, ht, hword, hesp, hregs, hflags, -, ⟨hcfg, -⟩, -⟩ := (hpush r s hs).1 hin
  obtain ⟨u, hu, hval, hespBack, hregs', hflags', -⟩ := (hpop r t).1 (by rwa [hesp, hcfg])
  refine ⟨t, u, ht, hu, fun q _ => ?_, hflags'.trans hflags⟩
  by_cases hqr : q = r
  · rw [hqr, hval, hesp, hword.wordIn_eq]
  · by_cases hqesp : q = esp
    · rw [hqesp, hespBack fun h => hqr (hqesp.trans h.symm), hesp, BitVec.sub_add_cancel]
    · rw [hregs' q (by simp [hqesp, hqr]), hregs q (by simpa using hqesp)]

/-- With SP_RESET at the end of memory the first slot is the last word. -/
theorem construct_slot_in {cfg : Config} (hsp : cfg.spReset.toNat = cfg.memSize) (hmem : 4 ≤ cfg.memSize) :
    ((State.construct cfg).x86Get esp - 4).toNat + 4 ≤ (State.construct cfg).cfg.memSize := by
  rw [construct_x86Get, if_pos rfl]
  change _ ≤ cfg.memSize
  bv_omega

/-- Settles O32: a pop undoes a push in any state, and SP_RESET puts the first slot at the end of memory, or at 0xFFFFFFFC past
it. -/
theorem pushThenPopRestoresTheRegisters : Obligations.PushThenPopRestoresTheRegisters := by
  refine ⟨fun r s => pushThenPop_restores r, fun r cfg hsp hmem => ?_, fun r cfg hsp hmem => ?_⟩
  · obtain ⟨t, u, ht, hu, hregs, -⟩ :=
      pushThenPop_restores r (construct_mem_wf cfg) (construct_slot_in hsp hmem)
    exact ⟨t, u, ht, hu, hregs⟩
  · have hslot : (State.construct cfg).x86Get esp - 4 = 0xFFFFFFFC := by
      rw [construct_x86Get, if_pos rfl, hsp]
      rfl
    have hout : (State.construct cfg).cfg.memSize < ((State.construct cfg).x86Get esp - 4).toNat + 4 := by
      rw [hslot]
      exact hmem
    obtain ⟨-, hpush⟩ := x86Push
    rw [(hpush r _ (construct_mem_wf cfg)).2 hout, hslot]
    rfl

end Sys2Proof.Machine
end

section
/-! SUPPORT. x86 INT and NOP (43_x86_system R190, R191): the rows of the two opcodes, the number in byte 1, and the bare advance
both executions are. -/

namespace Sys2Proof

theorem intRow_mem : ⟨0xCD, 0xFF, fun w => some (.x86Int (w.extractLsb' 8 8))⟩ ∈ x86Rows :=
  .tail _ (.tail _ (.tail _ (.tail _ (.tail _ (.tail _ (.tail _ (.head _)))))))

theorem nopRow_mem : ⟨0x90, 0xFF, fun _ => some .x86Nop⟩ ∈ x86Rows :=
  .tail _ (.tail _ (.tail _ (.tail _ (.tail _ (.tail _ (.tail _ (.tail _ (.tail _ (.tail _ (.head _))))))))))

/-- The number of INT is the whole of byte 1 (R90). -/
theorem decodeBytes_x86Int {bytes : List Byte} (h0 : byteAt bytes 0 = 0xCD) :
    decodeBytes .x86 bytes = .instr (.x86Int (byteAt bytes 1)) := by
  have hnumber : (x86Window bytes).extractLsb' 8 8 = byteAt bytes 1 :=
    (extractLsb'_x86Window_of_byte1 bytes (lo := 0) (by decide)).trans BitVec.extractLsb'_eq_self
  exact decodeBytes_opcodeByte intRow_mem h0 (congrArg (some <| Instr.x86Int ·) hnumber)

end Sys2Proof

namespace Sys2Proof.Machine

/-- The record of bytes that decode to an instruction is that instruction's row (R49). -/
theorem recordOf_of_instr {arch : Arch} {bytes : List Byte} {i : Instr} (h : decodeBytes arch bytes = .instr i) :
    recordOf arch bytes = ⟨opcodeOf arch bytes, operandsOf i, i.size, i.mnemonic⟩ := by
  rw [recordOf, h]

/-- The record of INT carries the number as its one operand, so that an observer can see it (R190). -/
theorem recordOf_x86Int {bytes : List Byte} (h0 : byteAt bytes 0 = 0xCD) :
    recordOf .x86 bytes = ⟨0xCD, [(byteAt bytes 1).zeroExtend 32], 2, "INT"⟩ := by
  have hopcode : opcodeOf .x86 bytes = 0xCD := congrArg (BitVec.zeroExtend 32) h0
  rw [recordOf_of_instr (decodeBytes_x86Int h0), hopcode]
  rfl

/-- An execution that only advances changes nothing but the pc. -/
theorem advance_result (s : State) (n : Word) :
    ∃ t, (.next (s.advance n) : StepOutcome) = .next t ∧
      t.pc = s.pc + n ∧ SameX86But [] s t ∧ t.x86Flags = s.x86Flags ∧ X86Frame s t :=
  ⟨_, rfl, rfl, fun _ _ => rfl, rfl, ChangesOnly.refl.advance.x86Frame rfl⟩

/-- Settles O36: byte 0 names each of the two rows, byte 1 is the number of INT, and each execution is an advance by the
instruction's size. -/
theorem x86IntAndNopOnlyAdvance : Obligations.X86IntAndNopOnlyAdvance :=
  ⟨fun _ h0 => ⟨decodeBytes_x86Int h0, recordOf_x86Int h0⟩, fun _ => decodeBytes_opcodeByte nopRow_mem rfl rfl,
    fun _ s => advance_result s 2, fun s => advance_result s 1⟩

end Sys2Proof.Machine
end

section
/-! SUPPORT. The fields of an instruction word (30_encoding R83, R94): a word built by ORing fields into a row's value is
matched by that row, and each field is read back from it. -/

namespace Sys2Proof

/-! ## One field -/

section
variable {n lo lo' len : Nat} (v : BitVec n)

theorem getLsbD_fieldAt (k : Nat) :
    (fieldAt v lo).getLsbD k = (decide (k < 32 ∧ lo ≤ k) && v.getLsbD (k - lo)) := by
  rw [fieldAt, BitVec.getLsbD_shiftLeft, BitVec.zeroExtend_eq_setWidth, BitVec.getLsbD_setWidth]
  by_cases hk : k < 32 ∧ lo ≤ k
  · simp [hk, show k - lo < 32 by omega]
  · rcases Decidable.not_and_iff_not_or_not.mp hk with past | below
    · simp [past]
    · simp [below, Nat.lt_of_not_le below]

@[simp] theorem extractLsb'_fieldAt_self (h : lo + n ≤ 32) : (fieldAt v lo).extractLsb' lo n = v := by
  ext k hk
  rw [BitVec.getElem_extractLsb', getLsbD_fieldAt]
  simp [show lo + k < 32 by omega, hk]

/-- A field is 0 wherever it does not reach. -/
@[simp] theorem extractLsb'_fieldAt_of_apart (h : lo' + len ≤ lo ∨ lo + n ≤ lo') :
    (fieldAt v lo).extractLsb' lo' len = 0#len := by
  ext k hk
  rw [BitVec.getElem_extractLsb', getLsbD_fieldAt]
  rcases h with below | above
  · simp [show ¬lo ≤ lo' + k by omega]
  · simp [BitVec.getLsbD_of_ge v (lo' + k - lo) (by omega)]

/-- A mask that leaves a field open does not see it. -/
theorem fieldAt_and_eq_zero {mask : Word} (h : mask.extractLsb' lo n = 0#n) : fieldAt v lo &&& mask = 0#32 := by
  ext k hk
  rw [BitVec.getElem_and, ← BitVec.getLsbD_eq_getElem, getLsbD_fieldAt, ← BitVec.getLsbD_eq_getElem]
  by_cases hin : lo ≤ k ∧ k - lo < n
  · have mask_k : mask.getLsbD k = false := by
      have := congrArg (·.getLsbD (k - lo)) h
      simpa [hin.2, Nat.add_sub_cancel' hin.1] using this
    simp [mask_k]
  · rcases Decidable.not_and_iff_not_or_not.mp hin with below | above
    · simp [below]
    · simp [BitVec.getLsbD_of_ge v (k - lo) (by omega)]

end

/-- A register number is a field as wide as the file needs. -/
theorem regAt_eq_fieldAt {n k : Nat} (hn : n ≤ 2 ^ k) (hk : k ≤ 32) (r : Fin n) (lo : Nat) :
    regAt r lo = fieldAt (BitVec.ofNat k r.val) lo := by
  rw [regAt, fieldAt, BitVec.zeroExtend_eq_setWidth, BitVec.setWidth_ofNat_of_le_of_lt hk (by omega)]

/-! ## A row's value with fields ORed in -/

section
variable {value mask w : Word} {n lo : Nat}

/-- ORing in a field that the mask leaves open keeps the match. -/
theorem or_fieldAt_and_mask (hit : w &&& mask = value) (v : BitVec n) (h : mask.extractLsb' lo n = 0#n) :
    (w ||| fieldAt v lo) &&& mask = value := by
  rw [BitVec.and_or_distrib_right, hit, fieldAt_and_eq_zero v h, BitVec.or_zero]

/-- A value that matches itself is 0 in a field that the mask leaves open. -/
theorem extractLsb'_eq_zero_of_and_mask (hit : value &&& mask = value) (h : mask.extractLsb' lo n = 0#n) :
    value.extractLsb' lo n = 0#n := by
  rw [← hit, BitVec.extractLsb'_and, h, BitVec.and_zero]

end

end Sys2Proof
end

section
/-! SUPPORT. The ARM decode of a word built from its fields (30_encoding R94 to R97; 44_arm R201). -/

namespace Sys2Proof

/-! ## The rows -/

/-- R83 for the ARM table: no two rows match the same word. -/
theorem armRows_disjoint : armRows.Pairwise fun r q => ∀ w, ¬(r.hits w = true ∧ q.hits w = true) :=
  List.Pairwise.imp Row.Conflicts.not_hits_both (by unfold Row.Conflicts; decide)

/-- A row of the table by its position there. -/
theorem armRows_mem (k : Fin 12) : armRows[k] ∈ armRows := List.getElem_mem _

section
variable {value mask : Word} {build : Word → Option Instr}

/-- A row's own value matches it. -/
theorem armRows_value_and_mask (hr : ⟨value, mask, build⟩ ∈ armRows) : value &&& mask = value :=
  (by decide : ∀ r ∈ armRows, r.value &&& r.mask = r.value) _ hr

/-- A word that a row matches decodes to what the row builds. -/
theorem decodeArm_of_row {w : Word} (hr : ⟨value, mask, build⟩ ∈ armRows) (hit : w &&& mask = value) :
    decodeArm w = build w :=
  decodeRows_of_disjoint armRows_disjoint hr (beq_iff_eq.mpr hit)

end

/-! ## The register fields -/

theorem regAt_eq_armCode (r : ArmReg) (lo : Nat) : regAt r lo = fieldAt (armCode r) lo :=
  regAt_eq_fieldAt (by decide) (by decide) r lo

/-- A field that holds a register's code names that register. -/
theorem armField_eq_some {w : Word} {lo : Nat} {r : ArmReg} (h : w.extractLsb' lo 4 = armCode r) :
    armField w lo = some r := by
  have hn : (w.extractLsb' lo 4).toNat = r.val := by
    rw [h, armCode, BitVec.toNat_ofNat, Nat.mod_eq_of_lt (by omega)]
  simp [armField, hn]

/-- Fields that name registers give what the row builds from them. -/
theorem armFields2_eq {w : Word} {hi lo : Nat} {a b : ArmReg} (k : ArmReg → ArmReg → Instr)
    (ha : w.extractLsb' hi 4 = armCode a) (hb : w.extractLsb' lo 4 = armCode b) : armFields2 w hi lo k = some (k a b) := by
  rw [armFields2, armField_eq_some ha, armField_eq_some hb]

theorem armFields3_eq {w : Word} {rd rn rm : ArmReg} (k : ArmReg → ArmReg → ArmReg → Instr)
    (hd : w.extractLsb' 12 4 = armCode rd) (hn : w.extractLsb' 16 4 = armCode rn)
    (hm : w.extractLsb' 0 4 = armCode rm) : armFields3 w k = some (k rd rn rm) := by
  rw [armFields3, armField_eq_some hd, armField_eq_some hn, armField_eq_some hm]

theorem armStackField_eq {w : Word} {rt : ArmReg} (k : ArmReg → Instr) (h : w.extractLsb' 12 4 = armCode rt)
    (hne : rt ≠ armSp) : armStackField w k = some (k rt) := by
  rw [armStackField, armField_eq_some h]
  exact if_neg hne

/-! ## The kinds of rows -/

section
variable {value : Word}

/-- The register data-processing rows: Rd, Rn and Rm are registers and the other bits are the row's. -/
theorem decodeArm_threeRegisters {k : ArmReg → ArmReg → ArmReg → Instr}
    (hr : ⟨value, 0xFFF00FF0, fun w => armFields3 w k⟩ ∈ armRows) (rd rn rm : ArmReg) :
    decodeArm (value ||| regAt rn 16 ||| regAt rd 12 ||| regAt rm 0) = some (k rd rn rm) := by
  have hit := armRows_value_and_mask hr
  have hn : value.extractLsb' 16 4 = 0#4 := extractLsb'_eq_zero_of_and_mask hit (by decide)
  have hd : value.extractLsb' 12 4 = 0#4 := extractLsb'_eq_zero_of_and_mask hit (by decide)
  have hm : value.extractLsb' 0 4 = 0#4 := extractLsb'_eq_zero_of_and_mask hit (by decide)
  simp only [regAt_eq_armCode]
  rw [decodeArm_of_row hr]
  · apply armFields3_eq <;> simp [BitVec.extractLsb'_or, hn, hd, hm]
  · exact or_fieldAt_and_mask (or_fieldAt_and_mask (or_fieldAt_and_mask hit _ (by decide)) _ (by decide)) _ (by decide)

/-- PUSH and POP: Rt is a register other than r13 (R201). -/
theorem decodeArm_stackRegister {k : ArmReg → Instr}
    (hr : ⟨value, 0xFFFF0FFF, fun w => armStackField w k⟩ ∈ armRows) {rt : ArmReg} (hne : rt ≠ armSp) :
    decodeArm (value ||| regAt rt 12) = some (k rt) := by
  have hit := armRows_value_and_mask hr
  have ht : value.extractLsb' 12 4 = 0#4 := extractLsb'_eq_zero_of_and_mask hit (by decide)
  rw [regAt_eq_armCode, decodeArm_of_row hr (or_fieldAt_and_mask hit _ (by decide))]
  refine armStackField_eq k ?_ hne
  rw [BitVec.extractLsb'_or, ht, extractLsb'_fieldAt_self _ (by decide), BitVec.zero_or]

/-- The rows of B, BL and SVC: bits 23..0 are the operand. -/
theorem decodeArm_imm24 {k : BitVec 24 → Instr}
    (hr : ⟨value, 0xFF000000, fun w => some (k (w.extractLsb' 0 24))⟩ ∈ armRows) (imm24 : BitVec 24) :
    decodeArm (value ||| fieldAt imm24 0) = some (k imm24) := by
  have hit := armRows_value_and_mask hr
  have himm : value.extractLsb' 0 24 = 0#24 := extractLsb'_eq_zero_of_and_mask hit (by decide)
  rw [decodeArm_of_row hr (or_fieldAt_and_mask hit _ (by decide)), BitVec.extractLsb'_or, himm,
    extractLsb'_fieldAt_self _ (by decide), BitVec.zero_or]

end

theorem decodeArm_movRegister (rd rm : ArmReg) :
    decodeArm (0xE1A00000 ||| regAt rd 12 ||| regAt rm 0) = some (.armMovRR rd rm) := by
  simp only [regAt_eq_armCode]
  rw [decodeArm_of_row (armRows_mem 0)]
  · apply armFields2_eq <;> simp [BitVec.extractLsb'_or]
  · exact or_fieldAt_and_mask (or_fieldAt_and_mask (by decide) _ (by decide)) _ (by decide)

/-- The row of MOV with an immediate: Rd is a register and the modified immediate is kept as its two fields (R95). -/
theorem decodeArm_movImmediate_of_fields {w : Word} {rd : ArmReg} {rot : BitVec 4} {imm8 : Byte}
    (hit : w &&& 0xFFFF0000 = 0xE3A00000) (hd : w.extractLsb' 12 4 = armCode rd) (hrot : w.extractLsb' 8 4 = rot)
    (himm : w.extractLsb' 0 8 = imm8) : decodeArm w = some (.armMovRI rd rot imm8) := by
  rw [decodeArm_of_row (armRows_mem 1) hit, armField_eq_some hd, hrot, himm, Option.map_some]

theorem decodeArm_movImmediate (rd : ArmReg) (rot : BitVec 4) (imm8 : Byte) :
    decodeArm (0xE3A00000 ||| regAt rd 12 ||| fieldAt rot 8 ||| fieldAt imm8 0) = some (.armMovRI rd rot imm8) := by
  rw [regAt_eq_armCode]
  apply decodeArm_movImmediate_of_fields
  case hit =>
    exact or_fieldAt_and_mask (or_fieldAt_and_mask (or_fieldAt_and_mask (by decide) _ (by decide)) _ (by decide)) _
      (by decide)
  case hd | hrot | himm => simp [BitVec.extractLsb'_or]

end Sys2Proof
end

section
/-! SUPPORT. The ARM instructions that write one register or none and go on (44_arm R202 to R212, R224): what they decode from,
the flags and the frame. -/

namespace Sys2Proof.Machine

/-- An ARM change leaves the registers and flags of the other architectures. -/
theorem ChangesOnly.sameNonArm {s t : State} (h : ChangesOnly .arm s t) : SameNonArm s t := by
  obtain ⟨hx86, hflags⟩ := h.x86 nofun
  refine ⟨fun q _ => ?_, hflags, fun q _ => ?_⟩
  · rw [State.x86Get, hx86, State.x86Get]
  · rw [State.rvGet, h.riscv nofun, State.rvGet]

/-- An ARM change that leaves memory keeps everything but the ARM registers, the ARM flags and the pc. -/
theorem ChangesOnly.armFrame {s t : State} (h : ChangesOnly .arm s t) (hmem : t.mem = s.mem) : ArmFrame s t :=
  ⟨h.inputs, fun b => by rw [hmem], h.sameNonArm⟩

/-- The frame of a store leaves out the four bytes it writes. -/
theorem ChangesOnly.armStoreFrame {s t : State} {addr : Word} (h : ChangesOnly .arm s t)
    (hmem : SameMemoryOutside addr s t) : ArmStoreFrame addr s t :=
  ⟨h.inputs, hmem, h.sameNonArm⟩

/-- A write of one register leaves the others, whatever else but an ARM register changed. -/
theorem sameArmBut_of_armSet {s t : State} {r : ArmReg} {v : Word} (ht : t.arm = (s.armSet r v).arm) :
    SameArmBut [r] s t := by
  intro q hq
  rw [← armGet_armSet_ne s (List.ne_of_not_mem_cons hq) v, State.armGet, ht, State.armGet]

/-- A MOV, ADD or SUB without S writes one register and goes on to the next instruction. -/
theorem armWrite_result (s : State) (rd : ArmReg) (v : Word) :
    ∃ t, (.next ((s.armSet rd v).advance 4) : StepOutcome) = .next t ∧
      t.armGet rd = v ∧ SameArmBut [rd] s t ∧ t.armFlags = s.armFlags ∧ t.pc = s.pc + 4 ∧ ArmFrame s t :=
  ⟨_, rfl, armGet_armSet_self s rd v, sameArmBut_of_armSet rfl, rfl, rfl,
    ChangesOnly.refl.armSet.advance.armFrame rfl⟩

/-- ADDS and SUBS write one register and the four flags together, and go on to the next instruction. -/
theorem armArith_result (s : State) (rd : ArmReg) (res : Word) (f : ArmFlags) :
    ∃ t, (.next (((s.armSet rd res).setArmFlags f).advance 4) : StepOutcome) = .next t ∧
      t.armGet rd = res ∧ SameArmBut [rd] s t ∧ t.armFlags = f ∧ t.pc = s.pc + 4 ∧ ArmFrame s t :=
  ⟨_, rfl, armGet_armSet_self s rd res, sameArmBut_of_armSet rfl, rfl, rfl,
    ChangesOnly.refl.armSet.setArmFlags.advance.armFrame rfl⟩

/-- Settles O37: each MOV word is its row's value with its operand fields, and the execution writes the destination alone. -/
theorem armMoves : Obligations.ArmMoves :=
  ⟨decodeArm_movRegister, decodeArm_movImmediate, fun rd rm s => armWrite_result s rd (s.armGet rm),
    fun rd rot imm8 s => armWrite_result s rd (armImm rot imm8)⟩

/-- Settles O38: ADD and SUB are three-register rows, and the execution writes the sum or the difference alone. -/
theorem armAddAndSubWithoutFlags : Obligations.ArmAddAndSubWithoutFlags := by
  refine ⟨fun rd rn rm => ⟨decodeArm_threeRegisters (armRows_mem 2) rd rn rm,
    decodeArm_threeRegisters (armRows_mem 4) rd rn rm⟩, fun rd rn rm s => ?_, fun rd rn rm s => ?_⟩
  · rw [← BitVec.add_def]
    exact armWrite_result s rd (s.armGet rn + s.armGet rm)
  · rw [ofInt_toNat_sub_toNat]
    exact armWrite_result s rd (s.armGet rn - s.armGet rm)

/-- Settles O39: ADDS and SUBS are three-register rows, and their flags are those of the sum and of the difference, C of the
difference being NOT borrow. -/
theorem armAddsAndSubsWithFlags : Obligations.ArmAddsAndSubsWithFlags := by
  refine ⟨fun rd rn rm => ⟨decodeArm_threeRegisters (armRows_mem 3) rd rn rm,
    decodeArm_threeRegisters (armRows_mem 5) rd rn rm⟩, fun rd rn rm s => ?_, fun rd rn rm s => ?_⟩
  · intro a b res
    obtain ⟨t, hnext, hget, hregs, hflags, hpc, hframe⟩ := armArith_result s rd res (armAddFlags a b)
    refine ⟨t, hnext, hget, hregs, ?_⟩
    rw [hflags]
    exact ⟨Iff.rfl, beq_iff_eq, decide_eq_true_iff, addOverflow_iff, hpc, hframe⟩
  · intro a b res
    have hres : res = a - b := ofInt_toNat_sub_toNat a b
    obtain ⟨t, hnext, hget, hregs, hflags, hpc, hframe⟩ := armArith_result s rd (a - b) (armSubFlags a b)
    refine ⟨t, hnext, hget.trans hres.symm, hregs, ?_⟩
    rw [hflags, hres]
    exact ⟨Iff.rfl, beq_iff_eq, decide_eq_true_iff, subOverflow_iff, hpc, hframe⟩

/-- Settles O44: the number of SVC is the word's operand field, and the execution is an advance alone. -/
theorem armSvcOnlyAdvances : Obligations.ArmSvcOnlyAdvances := fun imm24 =>
  ⟨decodeArm_imm24 (armRows_mem 11) imm24,
    fun _ => ⟨_, rfl, rfl, fun _ _ => rfl, rfl, ChangesOnly.refl.advance.armFrame rfl⟩⟩

end Sys2Proof.Machine
end

section
/-! SUPPORT. ARM PUSH and POP of one register (44_arm R214, R216). -/

namespace Sys2Proof.Machine

/-- A store in bounds goes on from the state with the word written. -/
theorem attempt_memWrite_of_in {s : State} {addr : Word} (v : Word) (k : State → StepOutcome)
    (hin : addr.toNat + 4 ≤ s.cfg.memSize) :
    attempt (s.memWrite addr v) k = k (s.setMem (s.mem.writeWord addr.toNat v)) := by
  rw [memWrite_eq_ok.mpr ⟨hin, rfl⟩, attempt_ok]

/-- A store out of bounds raises before what follows it. -/
theorem attempt_memWrite_of_out {s : State} {addr : Word} (v : Word) (k : State → StepOutcome)
    (hout : s.cfg.memSize < addr.toNat + 4) :
    attempt (s.memWrite addr v) k = .fault (.memoryOutOfBounds addr 4 s.pc) :=
  attempt_eq_fault.mpr (.inl (memWrite_eq_error.mpr ⟨hout, rfl⟩))

/-- Settles O40: the execution stores the register's old value in the slot and then moves sp to it. -/
theorem armPush : Obligations.ArmPush := by
  refine ⟨fun rt => decodeArm_stackRegister (armRows_mem 6), by decide, by decide, fun rt s hs _ => ?_⟩
  refine ⟨fun hin => ?_, attempt_memWrite_of_out (s.armGet rt) _⟩
  exact ⟨_, attempt_memWrite_of_in (s.armGet rt) _ hin, holdsWord_of_writeWord hs rfl, armGet_armSet_self _ armSp _,
    sameArmBut_of_armSet rfl, rfl, rfl,
    ChangesOnly.refl.setMem.armSet.advance.armStoreFrame (sameMemoryOutside_of_writeWord hs rfl)⟩

/-- Settles O41: the execution loads the word at sp; the register is not sp, so the write of it leaves sp past the word. -/
theorem armPop : Obligations.ArmPop := by
  refine ⟨fun rt => decodeArm_stackRegister (armRows_mem 7), by decide, by decide, fun rt s hne => ?_⟩
  refine ⟨fun hin => ?_, attempt_memRead_of_out _⟩
  refine ⟨_, attempt_memRead_of_in _ hin, armGet_armSet_self _ rt _, ?_, fun q hq => ?_, rfl, rfl,
    ChangesOnly.refl.armSet.armSet.advance.armFrame rfl⟩
  · exact (armGet_armSet_ne _ hne.symm _).trans (armGet_armSet_self s armSp _)
  · have hqrt : q ≠ rt := List.ne_of_not_mem_cons (List.not_mem_of_not_mem_cons hq)
    exact (armGet_armSet_ne _ hqrt _).trans (armGet_armSet_ne s (List.ne_of_not_mem_cons hq) _)

end Sys2Proof.Machine
end

section
/-! SUPPORT. The ARM control transfers (44_arm R218, R220, R222). -/

namespace Sys2Proof.Machine

/-- The branch offset is four times the signed field (30_encoding R96). -/
theorem armOffset_eq_ofInt (imm24 : BitVec 24) : armOffset imm24 = BitVec.ofInt 32 (4 * imm24.toInt) :=
  congrArg (BitVec.ofInt 32) BitVec.toInt_append_zero

/-- Settles O42: both branches go to the target of R96, which adds multiples of 4 to the pc; BL writes lr besides. -/
theorem armBranches : Obligations.ArmBranches := by
  refine ⟨fun imm24 => ⟨decodeArm_imm24 (armRows_mem 8) imm24, decodeArm_imm24 (armRows_mem 9) imm24⟩, fun imm24 s => ?_⟩
  intro offset
  have htarget : armTarget s.pc imm24 = s.pc + 8 + offset := congrArg (s.pc + 8 + ·) (armOffset_eq_ofInt imm24)
  refine ⟨fun hpc => ?_, ?_, ?_⟩
  · rw [← htarget]
    exact aligned4_iff.mp (aligned4_armTarget (aligned4_iff.mpr hpc) imm24)
  · exact ⟨_, rfl, htarget, fun _ _ => rfl, rfl, ChangesOnly.refl.jump.armFrame rfl⟩
  · exact ⟨_, rfl, htarget, armGet_armSet_self s armLr _, sameArmBut_of_armSet rfl, rfl,
      ChangesOnly.refl.armSet.jump.armFrame rfl⟩

/-- Settles O43: the execution is a checked transfer to lr that makes no other write. -/
theorem armBxLr : Obligations.ArmBxLr := by
  refine ⟨by decide, fun s => ⟨fun haligned => ?_, fun hmisaligned => ?_⟩⟩
  · exact ⟨_, transferAligned_eq_next.mpr ⟨aligned4_iff.mpr haligned, rfl⟩, rfl, fun _ _ => rfl, rfl,
      ChangesOnly.refl.jump.armFrame rfl⟩
  · exact transferAligned_eq_fault.mpr ⟨Bool.eq_false_iff.mpr (mt aligned4_iff.mp hmisaligned), rfl⟩

end Sys2Proof.Machine
end

section
/-! SUPPORT. The RISC-V decode of a word built from its fields (30_encoding R99 to R102). -/

namespace Sys2Proof

/-! ## The rows -/

/-- R83 for the RISC-V table: no two rows match the same word. -/
theorem rvRows_disjoint : rvRows.Pairwise fun r q => ∀ w, ¬(r.hits w = true ∧ q.hits w = true) :=
  List.Pairwise.imp Row.Conflicts.not_hits_both (by unfold Row.Conflicts; decide)

/-- A row of the table by its position there. -/
theorem rvRows_mem (k : Fin 9) : rvRows[k] ∈ rvRows := List.getElem_mem _

section
variable {value mask : Word} {build : Word → Option Instr}

/-- A row's own value matches it. -/
theorem rvRows_value_and_mask (hr : ⟨value, mask, build⟩ ∈ rvRows) : value &&& mask = value :=
  (by decide : ∀ r ∈ rvRows, r.value &&& r.mask = r.value) _ hr

/-- A word that a row matches decodes to what the row builds. -/
theorem decodeRiscv_of_row {w : Word} (hr : ⟨value, mask, build⟩ ∈ rvRows) (hit : w &&& mask = value) :
    decodeRiscv w = build w :=
  decodeRows_of_disjoint rvRows_disjoint hr (beq_iff_eq.mpr hit)

end

/-! ## The register fields -/

theorem regAt_eq_rvCode (r : RvReg) (lo : Nat) : regAt r lo = fieldAt (rvCode r) lo := by
  have hcode : BitVec.ofNat 5 r.val = rvCode r := BitVec.eq_of_toNat_eq (Nat.mod_eq_of_lt r.isLt)
  rw [regAt_eq_fieldAt (k := 5) (by decide) (by decide), hcode]

/-- A field that holds a register's code names that register. -/
theorem rvField_eq {w : Word} {lo : Nat} {r : RvReg} (h : w.extractLsb' lo 5 = rvCode r) : rvField w lo = r :=
  congrArg BitVec.toFin h

/-! ## The formats -/

section
variable {value : Word}

/-- Format I: rd, rs1 and the 12-bit immediate are the operands (ADDI, LW, JALR). -/
theorem decodeRiscv_formatI {k : RvReg → RvReg → BitVec 12 → Instr}
    (hr : ⟨value, 0x707F, fun w => some (k (rvRd w) (rvRs1 w) (rvImmIField w))⟩ ∈ rvRows) (rd rs1 : RvReg)
    (imm12 : BitVec 12) :
    decodeRiscv (value ||| regAt rd 7 ||| regAt rs1 15 ||| fieldAt imm12 20) = some (k rd rs1 imm12) := by
  have hit := rvRows_value_and_mask hr
  have hd : value.extractLsb' 7 5 = 0#5 := extractLsb'_eq_zero_of_and_mask hit (by decide)
  have hs : value.extractLsb' 15 5 = 0#5 := extractLsb'_eq_zero_of_and_mask hit (by decide)
  have himm : value.extractLsb' 20 12 = 0#12 := extractLsb'_eq_zero_of_and_mask hit (by decide)
  simp only [regAt_eq_rvCode]
  rw [decodeRiscv_of_row hr]
  · rw [rvRd, rvField_eq (r := rd), rvRs1, rvField_eq (r := rs1), rvImmIField] <;>
      simp [BitVec.extractLsb'_or, hd, hs, himm]
  · exact or_fieldAt_and_mask (or_fieldAt_and_mask (or_fieldAt_and_mask hit _ (by decide)) _ (by decide)) _ (by decide)

/-- Format R: rd, rs1 and rs2 are the operands (ADD, SUB). -/
theorem decodeRiscv_formatR {k : RvReg → RvReg → RvReg → Instr}
    (hr : ⟨value, 0xFE00707F, fun w => some (k (rvRd w) (rvRs1 w) (rvRs2 w))⟩ ∈ rvRows) (rd rs1 rs2 : RvReg) :
    decodeRiscv (value ||| regAt rd 7 ||| regAt rs1 15 ||| regAt rs2 20) = some (k rd rs1 rs2) := by
  have hit := rvRows_value_and_mask hr
  have hd : value.extractLsb' 7 5 = 0#5 := extractLsb'_eq_zero_of_and_mask hit (by decide)
  have hs1 : value.extractLsb' 15 5 = 0#5 := extractLsb'_eq_zero_of_and_mask hit (by decide)
  have hs2 : value.extractLsb' 20 5 = 0#5 := extractLsb'_eq_zero_of_and_mask hit (by decide)
  simp only [regAt_eq_rvCode]
  rw [decodeRiscv_of_row hr]
  · rw [rvRd, rvField_eq (r := rd), rvRs1, rvField_eq (r := rs1), rvRs2, rvField_eq (r := rs2)] <;>
      simp [BitVec.extractLsb'_or, hd, hs1, hs2]
  · exact or_fieldAt_and_mask (or_fieldAt_and_mask (or_fieldAt_and_mask hit _ (by decide)) _ (by decide)) _ (by decide)

end

/-- Format U: rd and the upper 20 bits are the operands. -/
theorem decodeRiscv_lui (rd : RvReg) (imm20 : BitVec 20) :
    decodeRiscv (0x37 ||| regAt rd 7 ||| fieldAt imm20 12) = some (.rvLui rd imm20) := by
  rw [regAt_eq_rvCode, decodeRiscv_of_row (rvRows_mem 0)]
  · rw [rvRd, rvField_eq (r := rd)] <;> simp [BitVec.extractLsb'_or]
  · exact or_fieldAt_and_mask (or_fieldAt_and_mask (by decide) _ (by decide)) _ (by decide)

theorem append_immS_pieces (imm12 : BitVec 12) : imm12.extractLsb' 5 7 ++ imm12.extractLsb' 0 5 = imm12 := by
  rw [BitVec.extractLsb'_append_extractLsb'_eq_extractLsb' (start₁ := 0) (len₁ := 5) rfl]
  exact BitVec.extractLsb'_eq_self

/-- Format S: the immediate lies in two pieces, and the row puts them together again (R100). -/
theorem decodeRiscv_sw (rs2 rs1 : RvReg) (imm12 : BitVec 12) :
    decodeRiscv (0x2023 ||| fieldAt (imm12.extractLsb' 0 5) 7 ||| regAt rs1 15 ||| regAt rs2 20 |||
      fieldAt (imm12.extractLsb' 5 7) 25) = some (.rvSw rs2 rs1 imm12) := by
  simp only [regAt_eq_rvCode]
  rw [decodeRiscv_of_row (rvRows_mem 5)]
  · rw [rvRs2, rvField_eq (r := rs2), rvRs1, rvField_eq (r := rs1), rvImmSField] <;>
      simp [BitVec.extractLsb'_or, append_immS_pieces]
  · exact or_fieldAt_and_mask (or_fieldAt_and_mask (or_fieldAt_and_mask (or_fieldAt_and_mask (by decide) _ (by decide)) _
      (by decide)) _ (by decide)) _ (by decide)

theorem append_immJ_pieces (half : BitVec 20) :
    half.extractLsb' 19 1 ++ half.extractLsb' 11 8 ++ half.extractLsb' 10 1 ++ half.extractLsb' 0 10 = half := by
  rw [BitVec.extractLsb'_append_extractLsb'_eq_extractLsb' (start₁ := 11) (len₁ := 8) rfl,
    BitVec.extractLsb'_append_extractLsb'_eq_extractLsb' (start₁ := 10) (len₁ := 1) rfl,
    BitVec.extractLsb'_append_extractLsb'_eq_extractLsb' (start₁ := 0) (len₁ := 10) rfl]
  exact BitVec.extractLsb'_eq_self

/-- Format J: the displacement lies in four pieces, and the row puts them together again (R100). -/
theorem decodeRiscv_jal (rd : RvReg) (half : BitVec 20) :
    decodeRiscv (0x6F ||| regAt rd 7 ||| fieldAt (half.extractLsb' 11 8) 12 ||| fieldAt (half.extractLsb' 10 1) 20 |||
      fieldAt (half.extractLsb' 0 10) 21 ||| fieldAt (half.extractLsb' 19 1) 31) = some (.rvJal rd half) := by
  rw [regAt_eq_rvCode, decodeRiscv_of_row (rvRows_mem 6)]
  · rw [rvRd, rvField_eq (r := rd), rvImmJField] <;>
      simp [BitVec.extractLsb'_or, append_immJ_pieces]
  · exact or_fieldAt_and_mask (or_fieldAt_and_mask (or_fieldAt_and_mask (or_fieldAt_and_mask (or_fieldAt_and_mask
      (by decide) _ (by decide)) _ (by decide)) _ (by decide)) _ (by decide)) _ (by decide)

end Sys2Proof
end

section
/-! SUPPORT. The RISC-V instructions that write one register or none and go on (45_riscv R251 to R255, R259). -/

namespace Sys2Proof.Machine

/-- A RISC-V change leaves the registers and flags of the other architectures. -/
theorem ChangesOnly.sameNonRv {s t : State} (h : ChangesOnly .riscv s t) : SameNonRv s t := by
  obtain ⟨hx86, hx86Flags⟩ := h.x86 nofun
  obtain ⟨harm, harmFlags⟩ := h.arm nofun
  refine ⟨fun q _ => ?_, hx86Flags, fun q _ => ?_, harmFlags⟩
  · rw [State.x86Get, hx86, State.x86Get]
  · rw [State.armGet, harm, State.armGet]

/-- A RISC-V change that leaves memory keeps everything but the RISC-V registers and the pc. -/
theorem ChangesOnly.rvFrame {s t : State} (h : ChangesOnly .riscv s t) (hmem : t.mem = s.mem) : RvFrame s t :=
  ⟨h.inputs, fun b => by rw [hmem], h.sameNonRv⟩

/-- The frame of a store leaves out the four bytes it writes. -/
theorem ChangesOnly.rvStoreFrame {s t : State} {addr : Word} (h : ChangesOnly .riscv s t)
    (hmem : SameMemoryOutside addr s t) : RvStoreFrame addr s t :=
  ⟨h.inputs, hmem, h.sameNonRv⟩

/-- The destination after its write, x0 included (R36, R38). -/
theorem rvGet_rvSet_dest (s : State) (rd : RvReg) (v : Word) : (s.rvSet rd v).rvGet rd = if rd = 0 then 0 else v := by
  by_cases hrd : rd = 0
  · rw [if_pos hrd, hrd, rvGet_zero]
  · rw [if_neg hrd, rvGet_rvSet_self s hrd]

theorem sameRvBut_rvSet_jump (s : State) (rd : RvReg) (v target : Word) :
    SameRvBut [rd] s ((s.rvSet rd v).jump target) :=
  fun _ hq => rvGet_rvSet_ne s (List.ne_of_not_mem_cons hq) v

/-- LUI, ADDI, ADD, SUB and a load that is answered write one register and go on to the next instruction. -/
theorem rvWrite_result (s : State) (rd : RvReg) (v : Word) :
    ∃ t, (.next ((s.rvSet rd v).advance 4) : StepOutcome) = .next t ∧
      t.rvGet rd = (if rd = 0 then 0 else v) ∧ SameRvBut [rd] s t ∧ t.pc = s.pc + 4 ∧ RvFrame s t :=
  ⟨_, rfl, rvGet_rvSet_dest s rd v, sameRvBut_rvSet_jump s rd v _, rfl, ChangesOnly.refl.rvSet.advance.rvFrame rfl⟩

/-! ## The immediates as numbers (30_encoding R100) -/

theorem rvImmU_eq_ofNat (imm20 : BitVec 20) : rvImmU imm20 = BitVec.ofNat 32 (imm20.toNat * 2 ^ 12) := by
  apply BitVec.eq_of_toNat_eq
  rw [rvImmU, BitVec.toNat_append, BitVec.toNat_zero, Nat.or_zero, Nat.shiftLeft_eq, BitVec.toNat_ofNat,
    Nat.mod_eq_of_lt (by omega)]

/-- The sum modulo 2^32 of an unsigned word and the signed immediate. -/
theorem add_rvImm12_eq_ofInt (a : Word) (imm12 : BitVec 12) :
    a + rvImm12 imm12 = BitVec.ofInt 32 (a.toNat + imm12.toInt) := by
  rw [BitVec.ofInt_add, BitVec.ofInt_natCast, BitVec.ofNat_toNat, BitVec.setWidth_eq]
  rfl

/-! ## The obligations -/

/-- Settles O45: each word is its row's value with its operand fields, and the execution writes the destination alone. -/
theorem rvLuiAndAddi : Obligations.RvLuiAndAddi := by
  refine ⟨decodeRiscv_lui, decodeRiscv_formatI (rvRows_mem 1), fun rd imm20 s => ?_, fun rd rs1 imm12 s => ?_⟩
  · rw [← rvImmU_eq_ofNat]
    exact rvWrite_result s rd (rvImmU imm20)
  · rw [← add_rvImm12_eq_ofInt]
    exact rvWrite_result s rd (s.rvGet rs1 + rvImm12 imm12)

/-- Settles O46: ADD and SUB are rows of format R, and the execution writes the sum or the difference alone. -/
theorem rvAddAndSub : Obligations.RvAddAndSub := by
  refine ⟨fun rd rs1 rs2 => ⟨decodeRiscv_formatR (rvRows_mem 2) rd rs1 rs2,
    decodeRiscv_formatR (rvRows_mem 3) rd rs1 rs2⟩, fun rd rs1 rs2 s => ⟨?_, ?_⟩⟩
  · rw [← BitVec.add_def]
    exact rvWrite_result s rd (s.rvGet rs1 + s.rvGet rs2)
  · rw [ofInt_toNat_sub_toNat]
    exact rvWrite_result s rd (s.rvGet rs1 - s.rvGet rs2)

/-- Settles O51: the word is a row's value, and the execution is an advance alone. -/
theorem rvEcallOnlyAdvances : Obligations.RvEcallOnlyAdvances :=
  ⟨by decide, fun _ => ⟨_, rfl, rfl, fun _ _ => rfl, ChangesOnly.refl.advance.rvFrame rfl⟩⟩

end Sys2Proof.Machine
end

section
/-! SUPPORT. RISC-V LW and SW (45_riscv R255, R256). -/

namespace Sys2Proof.Machine

/-- Settles O47: the access is made before the destination is looked at, so its fault does not depend on rd; a load that is
answered is a write of one register. -/
theorem rvLw : Obligations.RvLw := by
  refine ⟨decodeRiscv_formatI (rvRows_mem 4), fun rd rs1 imm12 s => ⟨fun hin => ?_, attempt_memRead_of_out _⟩⟩
  obtain ⟨t, ht, hresult⟩ := rvWrite_result s rd (wordIn s (s.rvAddress rs1 imm12))
  exact ⟨t, (attempt_memRead_of_in _ hin).trans ht, hresult⟩

/-- Settles O48: the execution stores the register's word at the effective address and advances. -/
theorem rvSw : Obligations.RvSw := by
  refine ⟨decodeRiscv_sw, fun rs2 rs1 imm12 s hs => ⟨fun hin => ?_, attempt_memWrite_of_out (s.rvGet rs2) _⟩⟩
  exact ⟨_, attempt_memWrite_of_in (s.rvGet rs2) _ hin, holdsWord_of_writeWord hs rfl, fun _ _ => rfl, rfl,
    ChangesOnly.refl.setMem.advance.rvStoreFrame (sameMemoryOutside_of_writeWord hs rfl)⟩

end Sys2Proof.Machine
end

section
/-! SUPPORT. RISC-V JAL and JALR (45_riscv R257, R258): both are one checked transfer that links. -/

namespace Sys2Proof.Machine

/-- A linking transfer to a multiple of 4 writes the destination and the pc. -/
theorem rvLink_of_aligned {s : State} {target : Word} (rd : RvReg) (h : aligned4 target = true) :
    ∃ t, transferAligned s target (s.rvSet rd (s.pc + 4)) = .next t ∧ t.pc = target ∧
      t.rvGet rd = (if rd = 0 then 0 else s.pc + 4) ∧ SameRvBut [rd] s t ∧ RvFrame s t :=
  ⟨_, transferAligned_eq_next.mpr ⟨h, rfl⟩, rfl, rvGet_rvSet_dest s rd _, sameRvBut_rvSet_jump s rd _ target,
    ChangesOnly.refl.rvSet.jump.rvFrame rfl⟩

/-- A transfer to another target raises, and nothing is written. -/
theorem transferAligned_of_misaligned {s : State} {target : Word} (done : State) (h : aligned4 target = false) :
    transferAligned s target done = .fault (.misalignedPC s.pc target) :=
  transferAligned_eq_fault.mpr ⟨h, rfl⟩

/-- The displacement of JAL is twice the signed field (30_encoding R100). -/
theorem rvImmJ_eq_ofInt (half : BitVec 20) : rvImmJ half = BitVec.ofInt 32 (2 * half.toInt) :=
  congrArg (BitVec.ofInt 32) BitVec.toInt_append_zero

/-- Settles O49: the displacement's pieces make up the field again, and the execution is a linking transfer to pc + immJ. -/
theorem rvJal : Obligations.RvJal := by
  refine ⟨decodeRiscv_jal, fun rd half s => ?_⟩
  rw [← rvImmJ_eq_ofInt]
  exact ⟨fun h => rvLink_of_aligned rd (aligned4_iff.mpr h),
    fun h => transferAligned_of_misaligned _ (Bool.eq_false_iff.mpr (mt aligned4_iff.mp h))⟩

/-- Once bit 0 is cleared, bit 1 alone decides the alignment. -/
theorem aligned4_clear_bit0 (a : Word) : aligned4 (a &&& 0xFFFFFFFE) = !(a &&& 0xFFFFFFFE).getLsbD 1 := by
  have bit1 : (a &&& 0xFFFFFFFE).getLsbD 1 = (a.extractLsb' 0 2 &&& 0b10).getLsbD 1 := by simp
  rw [aligned4, BitVec.extractLsb'_and, bit1]
  exact (by decide : ∀ b : BitVec 2, (b &&& 0b10 == 0#2) = !(b &&& 0b10).getLsbD 1) _

/-- Settles O50: the execution is a linking transfer whose target is computed from the old rs1. -/
theorem rvJalr : Obligations.RvJalr := by
  refine ⟨decodeRiscv_formatI (rvRows_mem 7), fun rd rs1 imm12 s => ?_⟩
  intro target
  have haligned : aligned4 target = !target.getLsbD 1 := aligned4_clear_bit0 _
  exact ⟨fun h => rvLink_of_aligned rd (haligned.trans (congrArg not h)),
    fun h => transferAligned_of_misaligned _ (haligned.trans (congrArg not h))⟩

end Sys2Proof.Machine
end

section
/-! SUPPORT. The faults of a step (60_exceptions R300 to R307): each instruction has at most one kind of fault of its own, an
access out of bounds or a transfer to a misaligned target, and what a step raises follows from what it selects. -/

namespace Sys2Proof.Machine

/-- f is the fault of instruction i from s: of the one kind i has, with its cause (R302, R303). -/
inductive OwnFault (i : Instr) (s : State) : Fault → Prop
  | access {addr : Word} (hi : i.accessesMemory = true) (hout : s.cfg.memSize < addr.toNat + 4) :
      OwnFault i s (.memoryOutOfBounds addr 4 s.pc)
  | transfer {target : Word} (hi : i.checksTarget = true) (ha : aligned4 target = false) :
      OwnFault i s (.misalignedPC s.pc target)

/-- Where nothing after the access can fault, the fault is the access's. -/
theorem attempt_next_eq_fault {α : Type} {r : Except Fault α} {k : α → State} {f : Fault} :
    attempt r (fun a => .next (k a)) = .fault f ↔ r = .error f := by
  simp [attempt_eq_fault]

namespace OwnFault

variable {i : Instr} {s : State} {f : Fault}

theorem of_memRead {addr : Word} (hi : i.accessesMemory = true) (h : s.memRead addr = .error f) : OwnFault i s f := by
  obtain ⟨hout, rfl⟩ := memRead_eq_error.mp h
  exact .access hi hout

theorem of_memWrite {addr v : Word} (hi : i.accessesMemory = true) (h : s.memWrite addr v = .error f) :
    OwnFault i s f := by
  obtain ⟨hout, rfl⟩ := memWrite_eq_error.mp h
  exact .access hi hout

theorem of_x86PushWord {v : Word} (hi : i.accessesMemory = true) (h : s.x86PushWord v = .error f) : OwnFault i s f := by
  obtain ⟨hout, rfl⟩ := x86PushWord_eq_error.mp h
  exact .access hi hout

theorem of_transferAligned {target : Word} {done : State} (hi : i.checksTarget = true)
    (h : transferAligned s target done = .fault f) : OwnFault i s f := by
  obtain ⟨ha, rfl⟩ := transferAligned_eq_fault.mp h
  exact .transfer hi ha

end OwnFault

/-- What an execution raises is the instruction's own fault. -/
theorem exec_ownFault {i : Instr} {s : State} {f : Fault} (h : exec i s = .fault f) : OwnFault i s f := by
  cases i with
  | x86MovRI | x86MovRR | x86AddRR | x86SubRR | x86Int | x86Jmp | x86Nop => cases h
  | armMovRR | armMovRI | armAddRR | armAddsRR | armSubRR | armSubsRR | armB | armBL | armSvc => cases h
  | rvLui | rvAddi | rvAdd | rvSub | rvEcall => cases h
  | x86Push | x86Call => exact .of_x86PushWord rfl (attempt_next_eq_fault.mp h)
  | x86Pop | x86Ret | armPop | rvLw => exact .of_memRead rfl (attempt_next_eq_fault.mp h)
  | armPush | rvSw => exact .of_memWrite rfl (attempt_next_eq_fault.mp h)
  | armBxLr | rvJal | rvJalr => exact .of_transferAligned rfl h

/-- No instruction both reaches memory and checks a target (R307). -/
theorem checksTarget_of_accessesMemory {i : Instr} (h : i.accessesMemory = true) : i.checksTarget = false := by
  revert h
  cases i <;> simp [Instr.accessesMemory, Instr.checksTarget]

theorem accessesMemory_of_checksTarget {i : Instr} (h : i.checksTarget = true) : i.accessesMemory = false :=
  Bool.eq_false_iff.mpr fun ha => by simp [checksTarget_of_accessesMemory ha] at h

/-- x86 transfers check no target (R42). -/
theorem arch_ne_x86_of_checksTarget {i : Instr} (h : i.checksTarget = true) : i.arch ≠ .x86 := by
  revert h
  cases i <;> simp [Instr.checksTarget, Instr.arch]

/-! ## What a step selects and raises -/

theorem select_eq_unimplemented {s : State} : s.select = .unimplemented ↔ s.cfg.variant = .unimplemented := by
  unfold State.select
  cases s.cfg.variant <;> cases s.completed <;> cases decode s.cfg.arch s.code s.pc <;> simp

theorem completed_eq_false_of_lt {s : State} (h : s.pc.toNat < s.code.length) : s.completed = false :=
  Bool.eq_false_iff.mpr fun hc => absurd (completed_iff.mp hc) (by omega)

theorem step_of_unimplemented {s : State} (h : s.cfg.variant = .unimplemented) :
    step s = .fault (.notImplemented s.cfg.arch) := by
  rw [step, select_eq_unimplemented.mpr h]
  rfl

theorem step_of_unmatched {s : State} {opcode : Word} (h : s.select = .unmatched opcode) :
    step s = execUnmatched opcode s := by
  rw [step, h]

theorem step_of_run {s : State} {i : Instr} (h : s.select = .run i) : step s = exec i s := by
  rw [step, h]

/-- The unmatched record raises exactly under STRICT_DECODE (R304). -/
theorem execUnmatched_eq_fault {opcode : Word} {s : State} {f : Fault} :
    execUnmatched opcode s = .fault f ↔ s.cfg.strictDecode = true ∧ .illegalInstruction s.pc opcode = f := by
  cases h : s.cfg.strictDecode <;> simp [execUnmatched, raise, h]

/-- What a step that faults raised: NotImplemented, IllegalInstruction, or the own fault of the instruction it ran. -/
theorem step_fault_cases {s : State} {f : Fault} (h : step s = .fault f) :
    (s.cfg.variant = .unimplemented ∧ f = .notImplemented s.cfg.arch) ∨
      (∃ opcode, decode s.cfg.arch s.code s.pc = .unmatched opcode ∧ s.cfg.strictDecode = true ∧
        f = .illegalInstruction s.pc opcode) ∨
        ∃ i, decode s.cfg.arch s.code s.pc = .instr i ∧ OwnFault i s f := by
  cases hsel : s.select with
  | unimplemented =>
    have hv := select_eq_unimplemented.mp hsel
    cases (step_of_unimplemented hv).symm.trans h
    exact .inl ⟨hv, rfl⟩
  | finished => cases (step_of_finished hsel).symm.trans h
  | unmatched opcode =>
    obtain ⟨-, -, hdec⟩ := select_eq_unmatched.mp hsel
    obtain ⟨hstrict, rfl⟩ := execUnmatched_eq_fault.mp ((step_of_unmatched hsel).symm.trans h)
    exact .inr (.inl ⟨opcode, hdec, hstrict, rfl⟩)
  | run i =>
    obtain ⟨-, -, hdec⟩ := select_eq_run.mp hsel
    exact .inr (.inr ⟨i, hdec, exec_ownFault ((step_of_run hsel).symm.trans h)⟩)

/-- Settles O13: before the end of the code a present backend selects what the decoder finds. -/
theorem stepRunsTheDecodedInstruction : Obligations.StepRunsTheDecodedInstruction := fun _ _ hv hlt hdec =>
  step_of_run (select_eq_run.mpr ⟨hv, completed_eq_false_of_lt hlt, hdec⟩)

/-- Settles O15: what is selected follows R307's order, and an instruction that is run can raise its own fault alone. -/
theorem faultsFollowTheirPriority : Obligations.FaultsFollowTheirPriority := by
  intro s
  obtain ⟨-, finished⟩ := completedStepChangesNothing s
  refine ⟨step_of_unimplemented, fun hv => ⟨finished hv, fun hlt => ⟨fun opcode hdec hstrict => ?_, ?_⟩⟩⟩
  · rw [step_of_unmatched (select_eq_unmatched.mpr ⟨hv, completed_eq_false_of_lt hlt, hdec⟩)]
    exact execUnmatched_eq_fault.mpr ⟨hstrict, rfl⟩
  · intro i f hdec h
    rw [stepRunsTheDecodedInstruction s i hv hlt hdec] at h
    cases exec_ownFault h with
    | access hi => exact .inl ⟨hi, checksTarget_of_accessesMemory hi, _, rfl⟩
    | transfer hi => exact .inr ⟨hi, accessesMemory_of_checksTarget hi, _, rfl⟩

/-- Settles O16: each of the three ways a step faults carries its cause; the decoded instruction is of the active
architecture, so a checked target is none of x86's. -/
theorem eachFaultHasItsCause : Obligations.EachFaultHasItsCause := by
  intro s f h
  rcases step_fault_cases h with ⟨hv, rfl⟩ | ⟨opcode, hdec, hstrict, rfl⟩ | ⟨i, hdec, hown⟩
  · exact ⟨rfl, hv⟩
  · exact ⟨rfl, hstrict, hdec⟩
  · cases hown with
    | access _ hout => exact ⟨rfl, rfl, hout⟩
    | transfer hi ha =>
      exact ⟨rfl, decode_arch hdec ▸ arch_ne_x86_of_checksTarget hi, mt aligned4_iff.mpr (Bool.eq_false_iff.mp ha)⟩

end Sys2Proof.Machine
end

section
/-! SUPPORT. The host's writes of memory and of one register (60_exceptions R322, R323). -/

namespace Sys2Proof.Machine

/-- A call on a present backend goes on to what it does (R306). -/
theorem guarded_of_minimal {α : Type} {s : State} (h : s.cfg.variant = .minimal) (k : Except CallError α) :
    s.guarded k = k := by
  rw [State.guarded, h]

/-- A call on an Unimplemented backend looks at nothing (R306). -/
theorem guarded_of_unimplemented {α : Type} {s : State} (h : s.cfg.variant = .unimplemented)
    (k : Except CallError α) : s.guarded k = .error (.fault (.notImplemented s.cfg.arch)) := by
  rw [State.guarded, h]

/-- Each byte after a byte-list write: the list's bytes from the address upward, the old byte elsewhere. -/
theorem read_writeBytes {m : Memory} (h : m.wf) (a b : Nat) (bytes : List Byte) :
    (m.writeBytes a bytes).read b =
      if a ≤ b ∧ b < a + bytes.length then bytes.getD (b - a) 0 else m.read b := by
  induction bytes generalizing m a with
  | nil => rw [if_neg fun hb => absurd hb.2 (Nat.not_lt.mpr hb.1), Memory.writeBytes]
  | cons v rest ih =>
    rw [Memory.writeBytes, ih (write_wf h a v), read_write h, List.length_cons]
    rcases Nat.lt_trichotomy b a with hlt | rfl | hgt
    · rw [if_neg (by omega), if_neg (by omega), if_neg (by omega)]
    · rw [if_neg (by omega), if_pos rfl, if_pos (by omega), Nat.sub_self, List.getD_cons_zero]
    · have hsub : b - a = b - (a + 1) + 1 := by omega
      rw [if_neg (by omega : b ≠ a), hsub, List.getD_cons_succ]
      by_cases hin : b < a + (rest.length + 1)
      · rw [if_pos (by omega), if_pos (by omega)]
      · rw [if_neg (by omega), if_neg (by omega)]

/-- Settles O54: the bounds test is made once for the whole list, and the write is a memory replaced. -/
theorem hostWriteMemStoresAllOrNothing : Obligations.HostWriteMemStoresAllOrNothing := by
  intro s addr bytes hv hs
  rw [State.hostWriteMem, guarded_of_minimal hv]
  refine ⟨fun hin => ?_, fun hout => ?_⟩
  · rw [if_pos (inBounds_iff.mpr hin)]
    exact ⟨_, rfl, fun a => read_writeBytes hs _ a bytes, writeBytes_wf hs _ bytes, rfl⟩
  · rw [if_neg fun hin => absurd (inBounds_iff.mp hin) (by omega)]
    exact ⟨s.pc, rfl⟩

/-- A general register after a write of one: only the write of x0 is discarded (R22, R33, R38). -/
theorem genGet_genSet (s : State) (r q : GenReg) (v : Word) :
    (s.genSet r v).genGet q = if q = r ∧ r ≠ .riscv 0 then v else s.genGet q := by
  cases r with
  | x86 => cases q <;> simp [State.genSet, State.genGet, x86Get_x86Set]
  | arm => cases q <;> simp [State.genSet, State.genGet, armGet_armSet]
  | riscv => cases q <;> simp [State.genSet, State.genGet, rvGet_rvSet]

/-- A register write leaves the flags, memory, the pc and the inputs. -/
theorem genSet_frame (s : State) (r : GenReg) (v : Word) :
    let t := s.genSet r v
    t.x86Flags = s.x86Flags ∧ t.armFlags = s.armFlags ∧ t.mem = s.mem ∧ t.pc = s.pc ∧ SameInputs s t := by
  cases r <;> exact ⟨rfl, rfl, rfl, rfl, rfl, rfl⟩

/-- Settles O55: an accepted name is one register write, any other is the error. -/
theorem hostWriteRegWritesOneRegister : Obligations.HostWriteRegWritesOneRegister := by
  intro s name v hv
  rw [State.hostWriteReg, guarded_of_minimal hv]
  refine ⟨fun r hr => ?_, fun hr => ?_⟩
  · rw [hr]
    exact ⟨_, rfl, fun q => genGet_genSet s r q v, genSet_frame s r v⟩
  · rw [hr]

end Sys2Proof.Machine
end

section
/-! SUPPORT. The registry's keys and the calls of an Unimplemented backend (60_exceptions R305, R306, R325). -/

namespace Sys2Proof.Machine

theorem archOfKey_eq_none {key : String} (hx86 : key ≠ "x86") (harm : key ≠ "arm") (hriscv : key ≠ "riscv") :
    archOfKey key = none := by
  rw [archOfKey, if_neg hx86, if_neg harm, if_neg hriscv]

/-- Settles O56: the three keys name the three instances, and no other key names an architecture. -/
theorem registryKnowsThreeKeys : Obligations.RegistryKnowsThreeKeys := by
  refine fun r key => ⟨rfl, rfl, rfl, fun hx86 harm hriscv => ?_⟩
  rw [Registry.get, archOfKey_eq_none hx86 harm hriscv]

/-- A step ends in NotImplemented whatever code buffer it is given. -/
theorem hostStep_of_unimplemented {s : State} (h : s.cfg.variant = .unimplemented) (code : List Byte) :
    s.hostStep code = .error (.fault (.notImplemented s.cfg.arch)) := by
  have hstep : step { s with code := code } = .fault (.notImplemented s.cfg.arch) := step_of_unimplemented h
  simp [State.hostStep, hstep]

theorem capability_of_get {r : Registry} {key : String} {s : State} (h : r.get key = .ok s) :
    r.capability key = .ok s.cfg.variant := by
  rw [Registry.capability, h]
  rfl

/-- Settles O57: reset, assemble and validate fail at the guard, run and debug at their RESET, step at its first test; the
registry reads the variant without a call. -/
theorem unimplementedBackendFailsEveryCall : Obligations.UnimplementedBackendFailsEveryCall := by
  intro s code text hv e
  have hreset : s.hostReset = .error e := hostReset_of_unimplemented hv
  refine ⟨hreset, hostStep_of_unimplemented hv code, ?_, ?_, guarded_of_unimplemented hv _,
    guarded_of_unimplemented hv _, fun r key hget => hv ▸ capability_of_get hget⟩
  · rw [State.hostRun, hreset]
    rfl
  · rw [State.hostDebug, hreset]
    rfl

end Sys2Proof.Machine
end

section
/-! SUPPORT. The host sequences (70_reset_and_hazards R350 to R353). CONTINUE's loop is DEBUG's loop with its trace counted, so
what a sequence does is said of DEBUG's loop, which keeps no count of its own. -/

namespace Sys2Proof.Machine

/-! ## One turn of the loops (R351, R352) -/

variable {s t : State} {f : Fault}

theorem continueLoop_of_completed (left n : Nat) (h : s.completed = true) :
    continueLoop left n s = runResult .completed s n := by
  simp [continueLoop.eq_def left, h]

theorem continueLoop_zero (n : Nat) (h : s.completed = false) : continueLoop 0 n s = runResult .ceiling s n := by
  simp [continueLoop, h]

theorem continueLoop_of_fault (left n : Nat) (h : s.completed = false) (hstep : step s = .fault f) :
    continueLoop (left + 1) n s = runResult (.stopped (.fault f)) s n := by
  simp [continueLoop, h, hstep]

theorem continueLoop_of_next (left n : Nat) (h : s.completed = false) (hstep : step s = .next t) :
    continueLoop (left + 1) n s = continueLoop left (n + 1) t := by
  simp [continueLoop, h, hstep]

theorem debugLoop_of_completed (left : Nat) (h : s.completed = true) : debugLoop left s = ⟨.completed, [], s⟩ := by
  simp [debugLoop.eq_def left, h]

theorem debugLoop_zero (h : s.completed = false) : debugLoop 0 s = ⟨.ceiling, [], s⟩ := by
  simp [debugLoop, h]

theorem debugLoop_of_fault (left : Nat) (h : s.completed = false) (hstep : step s = .fault f) :
    debugLoop (left + 1) s = ⟨.stopped (.fault f), [], s⟩ := by
  simp [debugLoop, h, hstep]

theorem debugLoop_of_next (left : Nat) (h : s.completed = false) (hstep : step s = .next t) :
    debugLoop (left + 1) s =
      { debugLoop left t with trace := traceEntry s t :: (debugLoop left t).trace } := by
  simp [debugLoop, h, hstep]

/-- The induction of the loops of R351 and R352: the program has completed, no step is left, the step faults, or it is made
and the loop goes on. -/
theorem loop_induction {motive : Nat → State → Prop}
    (completed : ∀ left s, s.completed = true → motive left s)
    (ceiling : ∀ s, s.completed = false → motive 0 s)
    (stopped : ∀ left s f, s.completed = false → step s = .fault f → motive (left + 1) s)
    (next : ∀ left s t, s.completed = false → step s = .next t → motive left t → motive (left + 1) s)
    (left : Nat) (s : State) : motive left s := by
  induction left generalizing s with
  | zero =>
    cases h : s.completed with
    | true => exact completed 0 s h
    | false => exact ceiling s h
  | succ left ih =>
    cases h : s.completed with
    | true => exact completed (left + 1) s h
    | false =>
      rcases noStepIsRefused s with ⟨t, ht⟩ | ⟨f, hf⟩
      · exact next left s t h ht (ih t)
      · exact stopped left s f h hf

/-! ## What a sequence does -/

/-- CONTINUE's loop ends as DEBUG's does, and counts the entries DEBUG's records (R353). -/
theorem continueLoop_eq_debugLoop (left n : Nat) (s : State) :
    continueLoop left n s =
      runResult (debugLoop left s).ending (debugLoop left s).final (n + (debugLoop left s).trace.length) := by
  induction left, s using loop_induction generalizing n with
  | completed left s h => rw [continueLoop_of_completed left n h, debugLoop_of_completed left h]; rfl
  | ceiling s h => rw [continueLoop_zero n h, debugLoop_zero h]; rfl
  | stopped left s f h hf => rw [continueLoop_of_fault left n h hf, debugLoop_of_fault left h hf]; rfl
  | next left s t h ht ih =>
    rw [continueLoop_of_next left n h ht, debugLoop_of_next left h ht, ih, List.length_cons, Nat.add_right_comm,
      Nat.add_assoc]

theorem run_succ_of_next {M : Host.Core} {s t : M.State} (k : Nat) (h : M.step s = .next t) :
    M.run (k + 1) s = M.run k t := by
  simp [Host.Core.run, h]

/-- A sequence is the iteration of as many steps as it records. -/
theorem run_debugLoop (left : Nat) (s : State) :
    Host.Core.run core (debugLoop left s).trace.length s = .next (debugLoop left s).final := by
  induction left, s using loop_induction with
  | completed left s h => rw [debugLoop_of_completed left h]; rfl
  | ceiling s h => rw [debugLoop_zero h]; rfl
  | stopped left s f h hf => rw [debugLoop_of_fault left h hf]; rfl
  | next left s t h ht ih =>
    rw [debugLoop_of_next left h ht, List.length_cons, run_succ_of_next (M := core) _ ht]
    exact ih

theorem length_debugLoop_trace_le (left : Nat) (s : State) : (debugLoop left s).trace.length ≤ left := by
  induction left, s using loop_induction with
  | completed left s h => rw [debugLoop_of_completed left h]; exact Nat.zero_le left
  | ceiling s h => rw [debugLoop_zero h]; exact Nat.le_refl 0
  | stopped left s f h hf => rw [debugLoop_of_fault left h hf]; exact Nat.zero_le _
  | next left s t h ht ih => rw [debugLoop_of_next left h ht]; exact Nat.succ_le_succ ih

/-- The three endings of a sequence that may make `left` steps (R342, R351). -/
inductive EndsWithin (left : Nat) (d : DebugResult) : Prop
  | completed (hend : d.ending = .completed) (hc : d.final.completed = true)
  | ceiling (hend : d.ending = .ceiling) (hc : d.final.completed = false) (hlen : d.trace.length = left)
  | stopped {f : Fault} (hend : d.ending = .stopped (.fault f)) (hc : d.final.completed = false)
      (hf : step d.final = .fault f)

/-- The loop ends in one of the three ways; a step more made is an entry more recorded. -/
theorem debugLoop_endsWithin (left : Nat) (s : State) : EndsWithin left (debugLoop left s) := by
  induction left, s using loop_induction with
  | completed left s h => rw [debugLoop_of_completed left h]; exact .completed rfl h
  | ceiling s h => rw [debugLoop_zero h]; exact .ceiling rfl h rfl
  | stopped left s f h hf => rw [debugLoop_of_fault left h hf]; exact .stopped rfl h hf
  | next left s t h ht ih =>
    rw [debugLoop_of_next left h ht]
    cases ih with
    | completed hend hc => exact .completed hend hc
    | ceiling hend hc hlen => exact .ceiling hend hc (congrArg (· + 1) hlen)
    | stopped hend hc hf => exact .stopped hend hc hf

/-- The last snapshot a trace records, or the start's where it is empty, is that of the state the loop leaves. -/
theorem lastAfter_debugLoop (left : Nat) (s : State) :
    ((debugLoop left s).trace.getLast?.map TraceEntry.after).getD s.snapshot = (debugLoop left s).final.snapshot := by
  induction left, s using loop_induction with
  | completed left s h => rw [debugLoop_of_completed left h]; rfl
  | ceiling s h => rw [debugLoop_zero h]; rfl
  | stopped left s f h hf => rw [debugLoop_of_fault left h hf]; rfl
  | next left s t h ht ih =>
    rw [debugLoop_of_next left h ht, List.getLast?_cons, Option.map_some, Option.getD_some,
      ← Option.getD_map TraceEntry.after]
    exact ih

/-- Settles O53: the clauses are those of DEBUG's loop, whose trace is as long as the count of steps. -/
theorem runIsStepsWithinTheCeiling : Obligations.RunIsStepsWithinTheCeiling := by
  intro left s r
  have hr : r = runResult (debugLoop left s).ending (debugLoop left s).final (debugLoop left s).trace.length := by
    simpa using continueLoop_eq_debugLoop left 0 s
  rw [hr]
  refine ⟨run_debugLoop left s, length_debugLoop_trace_le left s, rfl, ?_⟩
  cases debugLoop_endsWithin left s with
  | completed hend hc => simp [runResult, hend, hc]
  | ceiling hend hc hlen => simp [runResult, hend, hc, hlen]
  | stopped hend hc hf => simp [runResult, hend, hc, hf]

/-! ## RUN and DEBUG start in the same state -/

/-- RUN and DEBUG reset, then take the code buffer they are given (R350, R352). -/
def State.sequenceStart (s : State) (code : List Byte) : State := { State.construct s.cfg with code := code }

theorem hostDebug_of_minimal (h : s.cfg.variant = .minimal) (code : List Byte) :
    s.hostDebug code = .ok (debugLoop s.cfg.stepLimit (s.sequenceStart code)) := by
  rw [State.hostDebug, hostReset_of_minimal h]
  rfl

theorem hostRun_of_minimal (h : s.cfg.variant = .minimal) (code : List Byte) :
    s.hostRun code = .ok (continueLoop s.cfg.stepLimit 0 (s.sequenceStart code)) := by
  rw [State.hostRun, hostReset_of_minimal h]
  exact guarded_of_minimal h _

theorem variant_of_hostDebug_ok {code : List Byte} {d : DebugResult} (h : s.hostDebug code = .ok d) :
    s.cfg.variant = .minimal := by
  cases hv : s.cfg.variant with
  | minimal => rfl
  | unimplemented =>
    rw [State.hostDebug, hostReset_of_unimplemented hv] at h
    cases h

/-- Settles O52: both sequences run the loop from the same start under the same ceiling, and CONTINUE's loop is DEBUG's with
its trace counted. -/
theorem debugTraceMatchesRun : Obligations.DebugTraceMatchesRun := by
  intro s code d r hd hr
  have hv := variant_of_hostDebug_ok hd
  cases (hostDebug_of_minimal hv code).symm.trans hd
  cases (hostRun_of_minimal hv code).symm.trans hr
  rw [continueLoop_eq_debugLoop]
  refine ⟨(Nat.zero_add _).symm, rfl, rfl, fun e he => ?_⟩
  have hlast := lastAfter_debugLoop s.cfg.stepLimit (s.sequenceStart code)
  rwa [he] at hlast

end Sys2Proof.Machine
end

section
/-! SUPPORT. The encoder's words as a row's value with fields ORed in (30_encoding R94, R97, R99, R102), the form in which the
decode lemmas take a word. -/

namespace Sys2Proof

/-! ## Fields side by side -/

/-- Fields written side by side are ORed fields, each at its own bit. -/
theorem fieldAt_append {m n lo : Nat} (a : BitVec m) (b : BitVec n) :
    fieldAt (a ++ b) lo = fieldAt a (lo + n) ||| fieldAt b lo := by
  ext k hk
  rw [BitVec.getElem_or]
  simp only [← BitVec.getLsbD_eq_getElem, getLsbD_fieldAt, BitVec.getLsbD_append]
  by_cases hin : k - lo < n
  · simp [hin, show ¬(k < 32 ∧ lo + n ≤ k) by omega]
  · rw [if_neg hin, BitVec.getLsbD_of_ge b _ (Nat.le_of_not_lt hin), Nat.sub_sub, Bool.and_false, Bool.or_false]
    by_cases hlo : lo ≤ k
    · simp [hlo, show lo + n ≤ k by omega]
    · simp [hlo, show ¬lo + n ≤ k by omega]

theorem fieldAt_zero (n lo : Nat) : fieldAt (0#n) lo = 0#32 := by simp [fieldAt]

/-- A word is its own field at bit 0. -/
theorem fieldAt_word (w : Word) : fieldAt w 0 = w := by simp [fieldAt]

theorem word_or_left_comm (a b c : Word) : a ||| (b ||| c) = b ||| (a ||| c) := by ac_rfl

/-! ## The formats -/

theorem encodeDpr_eq (opc : BitVec 4) (setFlags : BitVec 1) (rn rd rm : BitVec 4) :
    encodeDpr opc setFlags rn rd rm =
      encodeDpr opc setFlags 0 0 0 ||| fieldAt rn 16 ||| fieldAt rd 12 ||| fieldAt rm 0 := by
  rw [← fieldAt_word (encodeDpr opc setFlags rn rd rm), ← fieldAt_word (encodeDpr opc setFlags 0 0 0)]
  simp only [encodeDpr, fieldAt_append, BitVec.ofNat_eq_ofNat, fieldAt_zero, BitVec.or_zero]

theorem encodeMovImm_eq (rd rot : BitVec 4) (imm8 : Byte) :
    encodeMovImm rd rot imm8 = encodeMovImm 0 0 0 ||| fieldAt rd 12 ||| fieldAt rot 8 ||| fieldAt imm8 0 := by
  rw [← fieldAt_word (encodeMovImm rd rot imm8), ← fieldAt_word (encodeMovImm 0 0 0)]
  simp only [encodeMovImm, fieldAt_append, BitVec.ofNat_eq_ofNat, fieldAt_zero, BitVec.or_zero]

theorem encodeStack_eq (pubwl : BitVec 5) (rt : BitVec 4) :
    encodeStack pubwl rt = encodeStack pubwl 0 ||| fieldAt rt 12 := by
  rw [← fieldAt_word (encodeStack pubwl rt), ← fieldAt_word (encodeStack pubwl 0)]
  simp only [encodeStack, fieldAt_append, BitVec.ofNat_eq_ofNat, fieldAt_zero, BitVec.or_zero]
  simp only [Nat.reduceAdd, BitVec.or_assoc, BitVec.or_comm (fieldAt rt 12)]

theorem encodeBranch_eq (link : BitVec 1) (imm24 : BitVec 24) :
    encodeBranch link imm24 = encodeBranch link 0 ||| fieldAt imm24 0 := by
  rw [← fieldAt_word (encodeBranch link imm24), ← fieldAt_word (encodeBranch link 0)]
  simp only [encodeBranch, fieldAt_append, BitVec.ofNat_eq_ofNat, fieldAt_zero, BitVec.or_zero]

theorem encodeR_eq (funct7 : BitVec 7) (rs2 rs1 : BitVec 5) (funct3 : BitVec 3) (rd : BitVec 5) (op : BitVec 7) :
    encodeR funct7 rs2 rs1 funct3 rd op =
      encodeR funct7 0 0 funct3 0 op ||| fieldAt rd 7 ||| fieldAt rs1 15 ||| fieldAt rs2 20 := by
  rw [← fieldAt_word (encodeR funct7 rs2 rs1 funct3 rd op), ← fieldAt_word (encodeR funct7 0 0 funct3 0 op)]
  simp only [encodeR, fieldAt_append, BitVec.ofNat_eq_ofNat, fieldAt_zero, BitVec.or_zero]
  simp only [Nat.reduceAdd, BitVec.or_assoc, BitVec.or_comm, word_or_left_comm]

theorem encodeI_eq (imm : BitVec 12) (rs1 : BitVec 5) (funct3 : BitVec 3) (rd : BitVec 5) (op : BitVec 7) :
    encodeI imm rs1 funct3 rd op = encodeI 0 0 funct3 0 op ||| fieldAt rd 7 ||| fieldAt rs1 15 ||| fieldAt imm 20 := by
  rw [← fieldAt_word (encodeI imm rs1 funct3 rd op), ← fieldAt_word (encodeI 0 0 funct3 0 op)]
  simp only [encodeI, fieldAt_append, BitVec.ofNat_eq_ofNat, fieldAt_zero, BitVec.or_zero, BitVec.zero_or]
  simp only [Nat.reduceAdd, BitVec.or_assoc, BitVec.or_comm, word_or_left_comm]

theorem encodeS_eq (imm : BitVec 12) (rs2 rs1 : BitVec 5) (funct3 : BitVec 3) (op : BitVec 7) :
    encodeS imm rs2 rs1 funct3 op =
      encodeS 0 0 0 funct3 op ||| fieldAt (imm.extractLsb' 0 5) 7 ||| fieldAt rs1 15 ||| fieldAt rs2 20 |||
        fieldAt (imm.extractLsb' 5 7) 25 := by
  rw [← fieldAt_word (encodeS imm rs2 rs1 funct3 op), ← fieldAt_word (encodeS 0 0 0 funct3 op)]
  simp only [encodeS, fieldAt_append, BitVec.ofNat_eq_ofNat, BitVec.extractLsb'_zero, fieldAt_zero, BitVec.or_zero,
    BitVec.zero_or]
  simp only [Nat.reduceAdd, BitVec.or_assoc, BitVec.or_comm, word_or_left_comm]

theorem encodeJ_eq (half : BitVec 20) (rd : BitVec 5) (op : BitVec 7) :
    encodeJ half rd op =
      encodeJ 0 0 op ||| fieldAt rd 7 ||| fieldAt (half.extractLsb' 11 8) 12 ||| fieldAt (half.extractLsb' 10 1) 20 |||
        fieldAt (half.extractLsb' 0 10) 21 ||| fieldAt (half.extractLsb' 19 1) 31 := by
  rw [← fieldAt_word (encodeJ half rd op), ← fieldAt_word (encodeJ 0 0 op)]
  simp only [encodeJ, fieldAt_append, BitVec.ofNat_eq_ofNat, BitVec.extractLsb'_zero, fieldAt_zero, BitVec.or_zero,
    BitVec.zero_or]
  simp only [Nat.reduceAdd, BitVec.or_assoc, BitVec.or_comm, word_or_left_comm]

end Sys2Proof
end

section
/-! SUPPORT. Each instruction's word at its operands (30_encoding R97, R102), and that the tables decode it (R83). -/

namespace Sys2Proof

theorem encodeDpr_registers {opc : BitVec 4} {setFlags : BitVec 1} {value : Word}
    (h : encodeDpr opc setFlags 0 0 0 = value) (rd rn rm : ArmReg) :
    encodeDpr opc setFlags (armCode rn) (armCode rd) (armCode rm) =
      value ||| regAt rn 16 ||| regAt rd 12 ||| regAt rm 0 := by
  rw [encodeDpr_eq, h]
  simp only [regAt_eq_armCode]

theorem encodeR_registers {funct7 : BitVec 7} {funct3 : BitVec 3} {op : BitVec 7} {value : Word}
    (h : encodeR funct7 0 0 funct3 0 op = value) (rd rs1 rs2 : RvReg) :
    encodeR funct7 (rvCode rs2) (rvCode rs1) funct3 (rvCode rd) op =
      value ||| regAt rd 7 ||| regAt rs1 15 ||| regAt rs2 20 := by
  rw [encodeR_eq, h]
  simp only [regAt_eq_rvCode]

theorem encodeI_registers {funct3 : BitVec 3} {op : BitVec 7} {value : Word} (h : encodeI 0 0 funct3 0 op = value)
    (rd rs1 : RvReg) (imm12 : BitVec 12) :
    encodeI imm12 (rvCode rs1) funct3 (rvCode rd) op = value ||| regAt rd 7 ||| regAt rs1 15 ||| fieldAt imm12 20 := by
  rw [encodeI_eq, h]
  simp only [regAt_eq_rvCode]

/-! ## One equation for each instruction -/

namespace EncodeWord

section
variable (rd rn rm rt : ArmReg) (imm24 : BitVec 24)

theorem armMovRR : encodeWord (.armMovRR rd rm) = 0xE1A00000 ||| regAt rd 12 ||| regAt rm 0 := by
  rw [encodeWord, encodeDpr_eq]
  simp only [regAt_eq_armCode, BitVec.ofNat_eq_ofNat, fieldAt_zero, BitVec.or_zero]
  rfl

theorem armMovRI (rot : BitVec 4) (imm8 : Byte) :
    encodeWord (.armMovRI rd rot imm8) = 0xE3A00000 ||| regAt rd 12 ||| fieldAt rot 8 ||| fieldAt imm8 0 := by
  rw [regAt_eq_armCode]
  exact encodeMovImm_eq (armCode rd) rot imm8

theorem armAddRR : encodeWord (.armAddRR rd rn rm) = 0xE0800000 ||| regAt rn 16 ||| regAt rd 12 ||| regAt rm 0 :=
  encodeDpr_registers rfl rd rn rm

theorem armAddsRR : encodeWord (.armAddsRR rd rn rm) = 0xE0900000 ||| regAt rn 16 ||| regAt rd 12 ||| regAt rm 0 :=
  encodeDpr_registers rfl rd rn rm

theorem armSubRR : encodeWord (.armSubRR rd rn rm) = 0xE0400000 ||| regAt rn 16 ||| regAt rd 12 ||| regAt rm 0 :=
  encodeDpr_registers rfl rd rn rm

theorem armSubsRR : encodeWord (.armSubsRR rd rn rm) = 0xE0500000 ||| regAt rn 16 ||| regAt rd 12 ||| regAt rm 0 :=
  encodeDpr_registers rfl rd rn rm

theorem armPush : encodeWord (.armPush rt) = 0xE52D0004 ||| regAt rt 12 := by
  rw [regAt_eq_armCode]
  exact encodeStack_eq 0b10010 (armCode rt)

theorem armPop : encodeWord (.armPop rt) = 0xE49D0004 ||| regAt rt 12 := by
  rw [regAt_eq_armCode]
  exact encodeStack_eq 0b01001 (armCode rt)

theorem armB : encodeWord (.armB imm24) = 0xEA000000 ||| fieldAt imm24 0 := encodeBranch_eq 0 imm24

theorem armBL : encodeWord (.armBL imm24) = 0xEB000000 ||| fieldAt imm24 0 := encodeBranch_eq 1 imm24

theorem armSvc : encodeWord (.armSvc imm24) = 0xEF000000 ||| fieldAt imm24 0 := by
  rw [← fieldAt_word (encodeWord _)]
  exact fieldAt_append 0xEF#8 imm24

end

section
variable (rd rs1 rs2 : RvReg) (imm12 : BitVec 12)

theorem rvLui (imm20 : BitVec 20) : encodeWord (.rvLui rd imm20) = 0x37 ||| regAt rd 7 ||| fieldAt imm20 12 := by
  rw [← fieldAt_word (encodeWord _), encodeWord]
  simp only [fieldAt_append, regAt_eq_rvCode]
  simp only [Nat.reduceAdd, BitVec.or_comm, word_or_left_comm]
  rfl

theorem rvAddi : encodeWord (.rvAddi rd rs1 imm12) = 0x13 ||| regAt rd 7 ||| regAt rs1 15 ||| fieldAt imm12 20 :=
  encodeI_registers rfl rd rs1 imm12

theorem rvAdd : encodeWord (.rvAdd rd rs1 rs2) = 0x33 ||| regAt rd 7 ||| regAt rs1 15 ||| regAt rs2 20 :=
  encodeR_registers rfl rd rs1 rs2

theorem rvSub : encodeWord (.rvSub rd rs1 rs2) = 0x40000033 ||| regAt rd 7 ||| regAt rs1 15 ||| regAt rs2 20 :=
  encodeR_registers rfl rd rs1 rs2

theorem rvLw : encodeWord (.rvLw rd rs1 imm12) = 0x2003 ||| regAt rd 7 ||| regAt rs1 15 ||| fieldAt imm12 20 :=
  encodeI_registers rfl rd rs1 imm12

theorem rvSw : encodeWord (.rvSw rs2 rs1 imm12) =
    0x2023 ||| fieldAt (imm12.extractLsb' 0 5) 7 ||| regAt rs1 15 ||| regAt rs2 20 |||
      fieldAt (imm12.extractLsb' 5 7) 25 := by
  simp only [regAt_eq_rvCode]
  exact encodeS_eq imm12 (rvCode rs2) (rvCode rs1) 0b010 0b0100011

theorem rvJal (half : BitVec 20) : encodeWord (.rvJal rd half) =
    0x6F ||| regAt rd 7 ||| fieldAt (half.extractLsb' 11 8) 12 ||| fieldAt (half.extractLsb' 10 1) 20 |||
      fieldAt (half.extractLsb' 0 10) 21 ||| fieldAt (half.extractLsb' 19 1) 31 := by
  rw [regAt_eq_rvCode]
  exact encodeJ_eq half (rvCode rd) 0b1101111

theorem rvJalr : encodeWord (.rvJalr rd rs1 imm12) = 0x67 ||| regAt rd 7 ||| regAt rs1 15 ||| fieldAt imm12 20 :=
  encodeI_registers rfl rd rs1 imm12

end

end EncodeWord

/-! ## The decode of an encoded word -/

theorem decodeArm_encodeWord {i : Instr} (harch : i.arch = .arm) (hwf : i.wellFormed = true) :
    decodeArm (encodeWord i) = some i := by
  cases i with
  | armMovRR rd rm => exact EncodeWord.armMovRR rd rm ▸ decodeArm_movRegister rd rm
  | armMovRI rd rot imm8 => exact EncodeWord.armMovRI rd rot imm8 ▸ decodeArm_movImmediate rd rot imm8
  | armAddRR rd rn rm => exact EncodeWord.armAddRR rd rn rm ▸ decodeArm_threeRegisters (armRows_mem 2) rd rn rm
  | armAddsRR rd rn rm => exact EncodeWord.armAddsRR rd rn rm ▸ decodeArm_threeRegisters (armRows_mem 3) rd rn rm
  | armSubRR rd rn rm => exact EncodeWord.armSubRR rd rn rm ▸ decodeArm_threeRegisters (armRows_mem 4) rd rn rm
  | armSubsRR rd rn rm => exact EncodeWord.armSubsRR rd rn rm ▸ decodeArm_threeRegisters (armRows_mem 5) rd rn rm
  | armPush rt => exact EncodeWord.armPush rt ▸ decodeArm_stackRegister (armRows_mem 6) (bne_iff_ne.mp hwf)
  | armPop rt => exact EncodeWord.armPop rt ▸ decodeArm_stackRegister (armRows_mem 7) (bne_iff_ne.mp hwf)
  | armB imm24 => exact EncodeWord.armB imm24 ▸ decodeArm_imm24 (armRows_mem 8) imm24
  | armBL imm24 => exact EncodeWord.armBL imm24 ▸ decodeArm_imm24 (armRows_mem 9) imm24
  | armBxLr => decide
  | armSvc imm24 => exact EncodeWord.armSvc imm24 ▸ decodeArm_imm24 (armRows_mem 11) imm24
  | _ => cases harch

theorem decodeRiscv_encodeWord {i : Instr} (harch : i.arch = .riscv) : decodeRiscv (encodeWord i) = some i := by
  cases i with
  | rvLui rd imm20 => exact EncodeWord.rvLui rd imm20 ▸ decodeRiscv_lui rd imm20
  | rvAddi rd rs1 imm12 => exact EncodeWord.rvAddi rd rs1 imm12 ▸ decodeRiscv_formatI (rvRows_mem 1) rd rs1 imm12
  | rvAdd rd rs1 rs2 => exact EncodeWord.rvAdd rd rs1 rs2 ▸ decodeRiscv_formatR (rvRows_mem 2) rd rs1 rs2
  | rvSub rd rs1 rs2 => exact EncodeWord.rvSub rd rs1 rs2 ▸ decodeRiscv_formatR (rvRows_mem 3) rd rs1 rs2
  | rvLw rd rs1 imm12 => exact EncodeWord.rvLw rd rs1 imm12 ▸ decodeRiscv_formatI (rvRows_mem 4) rd rs1 imm12
  | rvSw rs2 rs1 imm12 => exact EncodeWord.rvSw rs1 rs2 imm12 ▸ decodeRiscv_sw rs2 rs1 imm12
  | rvJal rd half => exact EncodeWord.rvJal rd half ▸ decodeRiscv_jal rd half
  | rvJalr rd rs1 imm12 => exact EncodeWord.rvJalr rd rs1 imm12 ▸ decodeRiscv_formatI (rvRows_mem 7) rd rs1 imm12
  | rvEcall => decide
  | _ => cases harch

end Sys2Proof
end

section
/-! SUPPORT. A decoded word is the encoding of its instruction (30_encoding R83): the row's value and its operand fields are all
the bits there are. -/

namespace Sys2Proof

/-! ## Fields read from a word -/

/-- A field read and written back is the word under the field's mask. -/
theorem fieldAt_extractLsb' (w : Word) (lo n : Nat) :
    fieldAt (w.extractLsb' lo n) lo = w &&& fieldAt (BitVec.allOnes n) lo := by
  ext k hk
  rw [BitVec.getElem_and]
  simp only [← BitVec.getLsbD_eq_getElem, getLsbD_fieldAt, BitVec.getLsbD_extractLsb', BitVec.getLsbD_allOnes]
  by_cases hlo : lo ≤ k
  · simp [hlo, hk, Bool.and_comm]
  · simp [hlo]

/-- A register read from a field of a word, written back there. -/
theorem regAt_of_armField {w : Word} {lo : Nat} {r : ArmReg} (h : armField w lo = some r) :
    regAt r lo = w &&& fieldAt (BitVec.allOnes 4) lo := by
  have hcode : armCode r = w.extractLsb' lo 4 := by
    simp only [armField, Option.dite_none_right_eq_some] at h
    obtain ⟨-, ⟨⟩⟩ := h
    exact BitVec.ofNat_toNat ..
  rw [regAt_eq_armCode, hcode, fieldAt_extractLsb']

theorem regAt_rvField (w : Word) (lo : Nat) : regAt (rvField w lo) lo = w &&& fieldAt (BitVec.allOnes 5) lo := by
  rw [regAt_eq_rvCode, ← fieldAt_extractLsb']
  rfl

/-! ## The rows -/

/-- A row of the table builds, from a word it matches, a well-formed instruction with that word as its encoding. -/
def EncodesBack (value mask : Word) (build : Word → Option Instr) : Prop :=
  ∀ w i, w &&& mask = value → build w = some i → i.wellFormed = true ∧ encodeWord i = w

theorem encodesBack_threeRegisters {value : Word} {k : ArmReg → ArmReg → ArmReg → Instr}
    (hk : ∀ rd rn rm, (k rd rn rm).wellFormed = true ∧
      encodeWord (k rd rn rm) = value ||| regAt rn 16 ||| regAt rd 12 ||| regAt rm 0) :
    EncodesBack value 0xFFF00FF0 (fun w => armFields3 w k) := by
  intro w i hit h
  obtain ⟨rd, rn, rm, hd, hn, hm, rfl⟩ := armFields3_eq_some h
  obtain ⟨hwf, hword⟩ := hk rd rn rm
  rw [hword, ← hit, regAt_of_armField hn, regAt_of_armField hd, regAt_of_armField hm]
  simp only [← BitVec.and_or_distrib_left]
  exact ⟨hwf, BitVec.and_allOnes⟩

theorem encodesBack_stackRegister {value : Word} {k : ArmReg → Instr}
    (hk : ∀ rt, rt ≠ armSp → (k rt).wellFormed = true ∧ encodeWord (k rt) = value ||| regAt rt 12) :
    EncodesBack value 0xFFFF0FFF (fun w => armStackField w k) := by
  intro w i hit h
  obtain ⟨rt, ht, hne, rfl⟩ := armStackField_eq_some h
  obtain ⟨hwf, hword⟩ := hk rt hne
  rw [hword, ← hit, regAt_of_armField ht, ← BitVec.and_or_distrib_left]
  exact ⟨hwf, BitVec.and_allOnes⟩

theorem encodesBack_imm24 {value : Word} {k : BitVec 24 → Instr}
    (hk : ∀ imm24, (k imm24).wellFormed = true ∧ encodeWord (k imm24) = value ||| fieldAt imm24 0) :
    EncodesBack value 0xFF000000 (fun w => some (k (w.extractLsb' 0 24))) := by
  rintro w i hit ⟨⟩
  obtain ⟨hwf, hword⟩ := hk (w.extractLsb' 0 24)
  rw [hword, ← hit, fieldAt_extractLsb', ← BitVec.and_or_distrib_left]
  exact ⟨hwf, BitVec.and_allOnes⟩

theorem armRows_encodeBack : ∀ r ∈ armRows, EncodesBack r.value r.mask r.build := by
  simp only [armRows, List.forall_mem_cons]
  refine ⟨?movRR, ?movRI, ?add, ?adds, ?sub, ?subs, ?push, ?pop, ?b, ?bl, ?bxLr, ?svc, nofun⟩
  case movRR =>
    intro w i hit h
    obtain ⟨rd, rm, hd, hm, rfl⟩ := armFields2_eq_some h
    rw [EncodeWord.armMovRR, ← hit, regAt_of_armField hd, regAt_of_armField hm]
    simp only [← BitVec.and_or_distrib_left]
    exact ⟨rfl, BitVec.and_allOnes⟩
  case movRI =>
    intro w i hit h
    obtain ⟨rd, hd, rfl⟩ := Option.map_eq_some_iff.mp h
    rw [EncodeWord.armMovRI, ← hit, regAt_of_armField hd, fieldAt_extractLsb', fieldAt_extractLsb']
    simp only [← BitVec.and_or_distrib_left]
    exact ⟨rfl, BitVec.and_allOnes⟩
  case add => exact encodesBack_threeRegisters fun rd rn rm => ⟨rfl, EncodeWord.armAddRR rd rn rm⟩
  case adds => exact encodesBack_threeRegisters fun rd rn rm => ⟨rfl, EncodeWord.armAddsRR rd rn rm⟩
  case sub => exact encodesBack_threeRegisters fun rd rn rm => ⟨rfl, EncodeWord.armSubRR rd rn rm⟩
  case subs => exact encodesBack_threeRegisters fun rd rn rm => ⟨rfl, EncodeWord.armSubsRR rd rn rm⟩
  case push => exact encodesBack_stackRegister fun rt hne => ⟨bne_iff_ne.mpr hne, EncodeWord.armPush rt⟩
  case pop => exact encodesBack_stackRegister fun rt hne => ⟨bne_iff_ne.mpr hne, EncodeWord.armPop rt⟩
  case b => exact encodesBack_imm24 fun imm24 => ⟨rfl, EncodeWord.armB imm24⟩
  case bl => exact encodesBack_imm24 fun imm24 => ⟨rfl, EncodeWord.armBL imm24⟩
  case bxLr =>
    rintro w i hit ⟨⟩
    exact ⟨rfl, hit.symm.trans BitVec.and_allOnes⟩
  case svc => exact encodesBack_imm24 fun imm24 => ⟨rfl, EncodeWord.armSvc imm24⟩

theorem encodesBack_formatI {value : Word} {k : RvReg → RvReg → BitVec 12 → Instr}
    (hk : ∀ rd rs1 imm12, (k rd rs1 imm12).wellFormed = true ∧
      encodeWord (k rd rs1 imm12) = value ||| regAt rd 7 ||| regAt rs1 15 ||| fieldAt imm12 20) :
    EncodesBack value 0x707F (fun w => some (k (rvRd w) (rvRs1 w) (rvImmIField w))) := by
  rintro w i hit ⟨⟩
  obtain ⟨hwf, hword⟩ := hk (rvRd w) (rvRs1 w) (rvImmIField w)
  rw [hword, ← hit, rvRd, rvRs1, rvImmIField, regAt_rvField, regAt_rvField, fieldAt_extractLsb']
  simp only [← BitVec.and_or_distrib_left]
  exact ⟨hwf, BitVec.and_allOnes⟩

theorem encodesBack_formatR {value : Word} {k : RvReg → RvReg → RvReg → Instr}
    (hk : ∀ rd rs1 rs2, (k rd rs1 rs2).wellFormed = true ∧
      encodeWord (k rd rs1 rs2) = value ||| regAt rd 7 ||| regAt rs1 15 ||| regAt rs2 20) :
    EncodesBack value 0xFE00707F (fun w => some (k (rvRd w) (rvRs1 w) (rvRs2 w))) := by
  rintro w i hit ⟨⟩
  obtain ⟨hwf, hword⟩ := hk (rvRd w) (rvRs1 w) (rvRs2 w)
  rw [hword, ← hit, rvRd, rvRs1, rvRs2, regAt_rvField, regAt_rvField, regAt_rvField]
  simp only [← BitVec.and_or_distrib_left]
  exact ⟨hwf, BitVec.and_allOnes⟩

/-- The two pieces of the S immediate (R100). -/
theorem rvImmSField_pieces (w : Word) :
    (rvImmSField w).extractLsb' 5 7 = w.extractLsb' 25 7 ∧ (rvImmSField w).extractLsb' 0 5 = w.extractLsb' 7 5 :=
  ⟨BitVec.extractLsb'_append_eq_left, BitVec.extractLsb'_append_eq_right⟩

/-- The four pieces of the J immediate (R100). -/
theorem rvImmJField_pieces (w : Word) :
    (rvImmJField w).extractLsb' 19 1 = w.extractLsb' 31 1 ∧ (rvImmJField w).extractLsb' 11 8 = w.extractLsb' 12 8 ∧
      (rvImmJField w).extractLsb' 10 1 = w.extractLsb' 20 1 ∧ (rvImmJField w).extractLsb' 0 10 = w.extractLsb' 21 10 := by
  have above {lo m n len : Nat} {a : BitVec m} {b : BitVec n} (h : n ≤ lo) :
      (a ++ b).extractLsb' lo len = a.extractLsb' (lo - n) len := BitVec.extractLsb'_append_eq_of_le h
  exact ⟨(above (by decide)).trans ((above (by decide)).trans BitVec.extractLsb'_append_eq_left),
    (above (by decide)).trans ((above (by decide)).trans BitVec.extractLsb'_append_eq_right),
    (above (by decide)).trans BitVec.extractLsb'_append_eq_right, BitVec.extractLsb'_append_eq_right⟩

theorem rvRows_encodeBack : ∀ r ∈ rvRows, EncodesBack r.value r.mask r.build := by
  simp only [rvRows, List.forall_mem_cons]
  refine ⟨?lui, ?addi, ?add, ?sub, ?lw, ?sw, ?jal, ?jalr, ?ecall, nofun⟩
  case lui =>
    rintro w i hit ⟨⟩
    rw [EncodeWord.rvLui, ← hit, rvRd, regAt_rvField, fieldAt_extractLsb']
    simp only [← BitVec.and_or_distrib_left]
    exact ⟨rfl, BitVec.and_allOnes⟩
  case addi => exact encodesBack_formatI fun rd rs1 imm12 => ⟨rfl, EncodeWord.rvAddi rd rs1 imm12⟩
  case add => exact encodesBack_formatR fun rd rs1 rs2 => ⟨rfl, EncodeWord.rvAdd rd rs1 rs2⟩
  case sub => exact encodesBack_formatR fun rd rs1 rs2 => ⟨rfl, EncodeWord.rvSub rd rs1 rs2⟩
  case lw => exact encodesBack_formatI fun rd rs1 imm12 => ⟨rfl, EncodeWord.rvLw rd rs1 imm12⟩
  case sw =>
    rintro w i hit ⟨⟩
    obtain ⟨hhi, hlo⟩ := rvImmSField_pieces w
    rw [EncodeWord.rvSw, ← hit, rvRs1, rvRs2, regAt_rvField, regAt_rvField, hhi, hlo, fieldAt_extractLsb',
      fieldAt_extractLsb']
    simp only [← BitVec.and_or_distrib_left]
    exact ⟨rfl, BitVec.and_allOnes⟩
  case jal =>
    rintro w i hit ⟨⟩
    obtain ⟨h20, h19, h11, h10⟩ := rvImmJField_pieces w
    rw [EncodeWord.rvJal, ← hit, rvRd, regAt_rvField, h20, h19, h11, h10]
    simp only [fieldAt_extractLsb', ← BitVec.and_or_distrib_left]
    exact ⟨rfl, BitVec.and_allOnes⟩
  case jalr => exact encodesBack_formatI fun rd rs1 imm12 => ⟨rfl, EncodeWord.rvJalr rd rs1 imm12⟩
  case ecall =>
    rintro w i hit ⟨⟩
    exact ⟨rfl, hit.symm.trans BitVec.and_allOnes⟩

theorem encodeWord_of_decodeRows {rows : List (Row 32)} (hrows : ∀ r ∈ rows, EncodesBack r.value r.mask r.build)
    {w : Word} {i : Instr} (h : decodeRows rows w = some i) : i.wellFormed = true ∧ encodeWord i = w := by
  obtain ⟨r, hr, hit, hb⟩ := decodeRows_eq_some h
  exact hrows r hr w i (beq_iff_eq.mp hit) hb

end Sys2Proof
end

section
/-! SUPPORT. Words and their bytes in code-buffer order (30_encoding R69, R81). -/

namespace Sys2Proof

/-- A word is its four bytes, the last one highest. -/
theorem append_word_bytes (v : Word) :
    v.extractLsb' 24 8 ++ v.extractLsb' 16 8 ++ v.extractLsb' 8 8 ++ v.extractLsb' 0 8 = v := by
  rw [BitVec.extractLsb'_append_extractLsb'_eq_extractLsb' (start₁ := 16) (len₁ := 8) rfl,
    BitVec.extractLsb'_append_extractLsb'_eq_extractLsb' (start₁ := 8) (len₁ := 8) rfl,
    BitVec.extractLsb'_append_extractLsb'_eq_extractLsb' (start₁ := 0) (len₁ := 8) rfl]
  exact BitVec.extractLsb'_eq_self

theorem wordAt_leBytes (v : Word) (rest : List Byte) : wordAt (leBytes v ++ rest) 0 = v := append_word_bytes v

/-- A word's bytes after one other byte, as in the x86 instructions with an immediate (R87). -/
theorem wordAt_cons_leBytes (b : Byte) (v : Word) (rest : List Byte) : wordAt (b :: leBytes v ++ rest) 1 = v :=
  append_word_bytes v

theorem leBytes_wordAt (bytes : List Byte) (k : Nat) :
    leBytes (wordAt bytes k) = [byteAt bytes k, byteAt bytes (k + 1), byteAt bytes (k + 2), byteAt bytes (k + 3)] := by
  have above {lo m n len : Nat} {a : BitVec m} {b : BitVec n} (h : n ≤ lo) :
      (a ++ b).extractLsb' lo len = a.extractLsb' (lo - n) len := BitVec.extractLsb'_append_eq_of_le h
  have h0 : (wordAt bytes k).extractLsb' 0 8 = byteAt bytes k := BitVec.extractLsb'_append_eq_right
  have h1 : (wordAt bytes k).extractLsb' 8 8 = byteAt bytes (k + 1) :=
    (above (by decide)).trans BitVec.extractLsb'_append_eq_right
  have h2 : (wordAt bytes k).extractLsb' 16 8 = byteAt bytes (k + 2) :=
    (above (by decide)).trans ((above (by decide)).trans BitVec.extractLsb'_append_eq_right)
  have h3 : (wordAt bytes k).extractLsb' 24 8 = byteAt bytes (k + 3) :=
    (above (by decide)).trans ((above (by decide)).trans BitVec.extractLsb'_append_eq_left)
  rw [leBytes, h0, h1, h2, h3]

/-- ARM and RISC-V instructions are the bytes of their word (R84). -/
theorem encode_of_arch_ne_x86 {i : Instr} (h : i.arch ≠ .x86) : encode i = leBytes (encodeWord i) := by
  revert h
  cases i <;> simp [Instr.arch, encode]

end Sys2Proof
end

section
/-! SUPPORT. The x86 encoder on bytes (30_encoding R84 to R90): what an encoded instruction decodes to, and what the opcode and
ModRM bytes are made of. -/

namespace Sys2Proof

/-! ## The fields of one byte -/

/-- A byte is its upper five bits and its lower three. -/
theorem append_opReg_parts (b : Byte) : b.extractLsb' 3 5 ++ b.extractLsb' 0 3 = b := by
  rw [BitVec.extractLsb'_append_extractLsb'_eq_extractLsb' (start₁ := 0) (len₁ := 3) rfl]
  exact BitVec.extractLsb'_eq_self

/-- A byte is its mode, its reg field and its rm field (R85). -/
theorem append_modRm_parts (b : Byte) : b.extractLsb' 6 2 ++ b.extractLsb' 3 3 ++ b.extractLsb' 0 3 = b := by
  rw [BitVec.extractLsb'_append_extractLsb'_eq_extractLsb' (start₁ := 3) (len₁ := 3) rfl]
  exact append_opReg_parts b

/-- The mask 0xF8 tests the upper five bits alone. -/
theorem and_F8_eq_iff {b : Byte} (op : BitVec 5) : b &&& 0xF8 = op ++ 0#3 ↔ b.extractLsb' 3 5 = op := by
  have hmasked : (b.extractLsb' 3 5 ++ b.extractLsb' 0 3) &&& (BitVec.allOnes 5 ++ 0#3) = b.extractLsb' 3 5 ++ 0#3 := by
    rw [BitVec.and_append, BitVec.and_allOnes, BitVec.and_zero]
  rw [append_opReg_parts] at hmasked
  rw [← BitVec.append_left_inj (s₁ := b.extractLsb' 3 5) (0#3), ← hmasked]
  rfl

/-- The mask 0xC0 tests the mode alone. -/
theorem and_C0_eq_iff {b : Byte} : b &&& 0xC0 = 0xC0 ↔ b.extractLsb' 6 2 = 0b11#2 := by
  revert b
  decide

theorem encodeOpReg_of_upper {b : Byte} {op : BitVec 5} (h : b.extractLsb' 3 5 = op) :
    encodeOpReg op (b.extractLsb' 0 3).toFin = b := by
  rw [← h]
  exact append_opReg_parts b

theorem encodeModRm_of_mode {b : Byte} (h : b.extractLsb' 6 2 = 0b11#2) :
    encodeModRm (b.extractLsb' 0 3).toFin (b.extractLsb' 3 3).toFin = b := by
  rw [encodeModRm, ← h]
  exact append_modRm_parts b

theorem encodeOpReg_eq_ofNat : ∀ (op : BitVec 5) (r : X86Reg),
    encodeOpReg op r = BitVec.ofNat 8 (8 * op.toNat + r.val) := by decide

theorem encodeModRm_eq_ofNat : ∀ d s : X86Reg, encodeModRm d s = BitVec.ofNat 8 (0xC0 + 8 * s.val + d.val) := by decide

/-! ## The decode of encoded bytes -/

theorem x86Rows_mem (k : Fin 11) : x86Rows[k] ∈ x86Rows := List.getElem_mem _

theorem decodeBytes_x86_encode {i : Instr} (harch : i.arch = .x86) (rest : List Byte) :
    decodeBytes .x86 (encode i ++ rest) = .instr i := by
  cases i with
  | x86MovRI r imm32 =>
    have h := Machine.decodeBytes_movImmediate (bytes := encode (.x86MovRI r imm32) ++ rest) (encodeOpReg_eq_ofNat _ r)
    rwa [encode, wordAt_cons_leBytes] at h
  | x86MovRR d s => exact decodeBytes_modRm (x86Rows_mem 1) rfl (encodeModRm_eq_ofNat d s)
  | x86AddRR d s => exact decodeBytes_modRm (x86Rows_mem 2) rfl (encodeModRm_eq_ofNat d s)
  | x86SubRR d s => exact decodeBytes_modRm (x86Rows_mem 3) rfl (encodeModRm_eq_ofNat d s)
  | x86Push r => exact decodeBytes_stackOpcode (x86Rows_mem 4) (op := 0x50) (by decide) rfl (encodeOpReg_eq_ofNat _ r)
  | x86Pop r => exact decodeBytes_stackOpcode (x86Rows_mem 5) (op := 0x58) (by decide) rfl (encodeOpReg_eq_ofNat _ r)
  | x86Ret => exact decodeBytes_opcodeByte (x86Rows_mem 6) rfl rfl
  | x86Int imm8 => exact decodeBytes_x86Int rfl
  | x86Jmp disp32 =>
    have h := decodeBytes_disp32 (bytes := encode (.x86Jmp disp32) ++ rest) (x86Rows_mem 8) rfl
    rwa [encode, wordAt_cons_leBytes] at h
  | x86Call disp32 =>
    have h := decodeBytes_disp32 (bytes := encode (.x86Call disp32) ++ rest) (x86Rows_mem 9) rfl
    rwa [encode, wordAt_cons_leBytes] at h
  | x86Nop => exact decodeBytes_opcodeByte nopRow_mem rfl rfl
  | _ => cases harch

end Sys2Proof
end

section
/-! SUPPORT. The bytes an x86 instruction was decoded from are its encoding (30_encoding R83). -/

namespace Sys2Proof

/-- A row of the table builds, from bytes it matches, an instruction whose encoding is those bytes. -/
def EncodesBackX86 (r : Row 40) : Prop :=
  ∀ bytes i, byteAt bytes 0 &&& r.mask.extractLsb' 0 8 = r.value.extractLsb' 0 8 →
    byteAt bytes 1 &&& r.mask.extractLsb' 8 8 = r.value.extractLsb' 8 8 → r.build (x86Window bytes) = some i →
      i.wellFormed = true ∧ encode i = (List.range i.size).map (byteAt bytes)

section
variable (bytes : List Byte)

theorem x86Field_byte0 : x86Field (x86Window bytes) 0 = ((byteAt bytes 0).extractLsb' 0 3).toFin :=
  congrArg BitVec.toFin (extractLsb'_x86Window_of_byte0 bytes (by decide))

/-- The rm and reg fields of the ModRM byte (R85). -/
theorem x86Field_rm : x86Field (x86Window bytes) 8 = ((byteAt bytes 1).extractLsb' 0 3).toFin :=
  congrArg BitVec.toFin (extractLsb'_x86Window_of_byte1 bytes (lo := 0) (by decide))

theorem x86Field_reg : x86Field (x86Window bytes) 11 = ((byteAt bytes 1).extractLsb' 3 3).toFin :=
  congrArg BitVec.toFin (extractLsb'_x86Window_of_byte1 bytes (lo := 3) (by decide))

theorem x86Window_byte1 : (x86Window bytes).extractLsb' 8 8 = byteAt bytes 1 :=
  (extractLsb'_x86Window_of_byte1 bytes (lo := 0) (by decide)).trans BitVec.extractLsb'_eq_self

end

theorem encodesBack_modRm {value : BitVec 40} {k : X86Reg → X86Reg → Instr}
    (hvalue : value.extractLsb' 8 8 = 0xC0) (hk : ∀ d s, (k d s).wellFormed = true ∧ (k d s).size = 2 ∧
      encode (k d s) = [value.extractLsb' 0 8, encodeModRm d s]) :
    EncodesBackX86 ⟨value, 0xC0FF, fun w => some (k (x86Field w 8) (x86Field w 11))⟩ := by
  rintro bytes i h0 h1 ⟨⟩
  have masks : (0xC0FF#40).extractLsb' 0 8 = BitVec.allOnes 8 ∧ (0xC0FF#40).extractLsb' 8 8 = 0xC0 := by decide
  have hop : byteAt bytes 0 = value.extractLsb' 0 8 := BitVec.and_allOnes.symm.trans (masks.1 ▸ h0)
  have hmod : byteAt bytes 1 &&& 0xC0 = value.extractLsb' 8 8 := masks.2 ▸ h1
  obtain ⟨hwf, hsize, hencode⟩ := hk ((byteAt bytes 1).extractLsb' 0 3).toFin ((byteAt bytes 1).extractLsb' 3 3).toFin
  rw [x86Field_rm, x86Field_reg, hencode, hsize, encodeModRm_of_mode (and_C0_eq_iff.mp (hmod.trans hvalue)), ← hop]
  exact ⟨hwf, rfl⟩

theorem encodesBack_opReg {value : BitVec 40} {op : BitVec 5} {k : X86Reg → Instr}
    (hvalue : value.extractLsb' 0 8 = op ++ 0#3) (hk : ∀ r, (k r).wellFormed = true ∧ (k r).size = 1 ∧
      encode (k r) = [encodeOpReg op r]) : EncodesBackX86 ⟨value, 0xF8, fun w => some (k (x86Field w 0))⟩ := by
  rintro bytes i h0 - ⟨⟩
  obtain ⟨hwf, hsize, hencode⟩ := hk ((byteAt bytes 0).extractLsb' 0 3).toFin
  rw [x86Field_byte0, hencode, hsize, encodeOpReg_of_upper ((and_F8_eq_iff op).mp (h0.trans hvalue))]
  exact ⟨hwf, rfl⟩

theorem encodesBack_disp32 {value : BitVec 40} {k : Word → Instr} (hk : ∀ disp32, (k disp32).wellFormed = true ∧
      (k disp32).size = 5 ∧ encode (k disp32) = value.extractLsb' 0 8 :: leBytes disp32) :
    EncodesBackX86 ⟨value, 0xFF, fun w => some (k (x86Imm32 w))⟩ := by
  rintro bytes i h0 - ⟨⟩
  have hop : byteAt bytes 0 = value.extractLsb' 0 8 := BitVec.and_allOnes.symm.trans h0
  obtain ⟨hwf, hsize, hencode⟩ := hk (wordAt bytes 1)
  rw [x86Imm32_x86Window, hencode, hsize, leBytes_wordAt, ← hop]
  exact ⟨hwf, rfl⟩

theorem encodesBack_opcodeByte {value : BitVec 40} {i : Instr} (hwf : i.wellFormed = true) (hsize : i.size = 1)
    (hencode : encode i = [value.extractLsb' 0 8]) : EncodesBackX86 ⟨value, 0xFF, fun _ => some i⟩ := by
  rintro bytes i h0 - ⟨⟩
  have hop : byteAt bytes 0 = value.extractLsb' 0 8 := BitVec.and_allOnes.symm.trans h0
  rw [hencode, hsize, ← hop]
  exact ⟨hwf, rfl⟩

theorem x86Rows_encodeBack : ∀ r ∈ x86Rows, EncodesBackX86 r := by
  simp only [x86Rows, List.forall_mem_cons]
  refine ⟨?movRI, ?movRR, ?add, ?sub, ?push, ?pop, ?ret, ?int, ?jmp, ?call, ?nop, nofun⟩
  case movRI =>
    rintro bytes i h0 - ⟨⟩
    have hbyte := encodeOpReg_of_upper ((and_F8_eq_iff 0b10111).mp h0)
    rw [encode, x86Field_byte0, hbyte, x86Imm32_x86Window, leBytes_wordAt]
    exact ⟨rfl, rfl⟩
  case movRR | add | sub => exact encodesBack_modRm rfl fun _ _ => ⟨rfl, rfl, rfl⟩
  case push | pop => exact encodesBack_opReg rfl fun _ => ⟨rfl, rfl, rfl⟩
  case ret | nop => exact encodesBack_opcodeByte rfl rfl rfl
  case int =>
    rintro bytes i h0 - ⟨⟩
    have hop : byteAt bytes 0 = 0xCD := BitVec.and_allOnes.symm.trans h0
    rw [encode, x86Window_byte1, ← hop]
    exact ⟨rfl, rfl⟩
  case jmp | call => exact encodesBack_disp32 fun _ => ⟨rfl, rfl, rfl⟩

theorem encode_of_decodeX86 {bytes : List Byte} {i : Instr} (h : decodeX86 bytes = some i) :
    i.wellFormed = true ∧ encode i = (List.range i.size).map (byteAt bytes) := by
  obtain ⟨r, hr, hit, hb⟩ := decodeRows_eq_some h
  obtain ⟨h0, h1⟩ := (x86Row_hits_iff hr bytes).mp hit
  exact x86Rows_encodeBack r hr bytes i h0 h1 hb

end Sys2Proof
end

section
/-! SUPPORT. The decoder and the encoder are inverse to each other on every architecture (30_encoding sections 2 to 4). -/

namespace Sys2Proof

/-- Settles O6: each architecture's table decodes the encoder's bytes or word, and a decode looks no further. -/
theorem decodeOfEncodeIsTheInstruction : Obligations.DecodeOfEncodeIsTheInstruction := by
  intro i rest hwf
  cases harch : i.arch with
  | x86 => exact decodeBytes_x86_encode harch rest
  | arm =>
    rw [encode_of_arch_ne_x86 (by simp [harch]), decodeBytes_eq_instr, decodeInstr, wordAt_leBytes]
    exact decodeArm_encodeWord harch hwf
  | riscv =>
    rw [encode_of_arch_ne_x86 (by simp [harch]), decodeBytes_eq_instr, decodeInstr, wordAt_leBytes]
    exact decodeRiscv_encodeWord harch

/-- The bytes of an ARM or RISC-V instruction that a word encodes are that word's. -/
theorem encode_of_encodeWord {i : Instr} {bytes : List Byte} (harch : i.arch ≠ .x86)
    (h : encodeWord i = wordAt bytes 0) : encode i = (List.range i.size).map (byteAt bytes) := by
  rw [encode_of_arch_ne_x86 harch, h, leBytes_wordAt, Machine.size_of_arch_ne_x86 harch]
  rfl

/-- Settles O7: the row that matched is the instruction's own, and its value and operand fields are all the bits read. -/
theorem decodedBytesAreTheEncoding : Obligations.DecodedBytesAreTheEncoding := by
  intro arch bytes i h
  rw [decodeBytes_eq_instr] at h
  have harch := decodeInstr_arch h
  cases arch with
  | x86 =>
    obtain ⟨hwf, hencode⟩ := encode_of_decodeX86 h
    exact ⟨hwf, harch, hencode⟩
  | arm =>
    obtain ⟨hwf, hword⟩ := encodeWord_of_decodeRows armRows_encodeBack h
    exact ⟨hwf, harch, encode_of_encodeWord (by simp [harch]) hword⟩
  | riscv =>
    obtain ⟨hwf, hword⟩ := encodeWord_of_decodeRows rvRows_encodeBack h
    exact ⟨hwf, harch, encode_of_encodeWord (by simp [harch]) hword⟩

/-- Settles O8: any two rows of a table differ in a bit that both of them test. -/
theorem noTwoRowsMatchTheSameBytes : Obligations.NoTwoRowsMatchTheSameBytes :=
  ⟨x86Rows_disjoint, armRows_disjoint, rvRows_disjoint⟩

end Sys2Proof
end

section
/-! SUPPORT. The decode procedure of 30_encoding R91 against the x86 table, and the unmatched record (R92). -/

namespace Sys2Proof.Machine

/-! ## The unmatched record (R92) -/

theorem decodeBytes_of_none {arch : Arch} {bytes : List Byte} (h : decodeInstr arch bytes = none) :
    decodeBytes arch bytes = .unmatched (opcodeOf arch bytes) := by
  rw [decodeBytes, h]

theorem recordOf_of_none {arch : Arch} {bytes : List Byte} (h : decodeInstr arch bytes = none) :
    recordOf arch bytes = ⟨opcodeOf arch bytes, [], arch.unit, "NOP_UNMATCHED"⟩ := by
  rw [recordOf, decodeBytes_of_none h]

/-- Settles O10: the unmatched record is all a table leaves, and its step goes on or raises by STRICT_DECODE alone. -/
theorem unmatchedBytesAreASkippedUnitOrIllegal : Obligations.UnmatchedBytesAreASkippedUnitOrIllegal := by
  refine ⟨fun arch bytes h => ⟨decodeBytes_of_none h, ?_⟩, fun s opcode hv hlt hdec => ?_⟩
  · rw [recordOf_of_none h]
    cases arch <;> rfl
  · rw [step_of_unmatched (select_eq_unmatched.mpr ⟨hv, completed_eq_false_of_lt hlt, hdec⟩)]
    refine ⟨fun hstrict => ?_, fun hstrict => execUnmatched_eq_fault.mpr ⟨hstrict, rfl⟩⟩
    refine execUnmatched_eq_next.mpr ⟨hstrict, ?_⟩
    cases s.cfg.arch <;> rfl

/-! ## Each test of the procedure finds the row it stands for -/

/-- A register read from a field is recorded as the field's number (R49). -/
theorem codeOperand_toFin {n : Nat} (v : BitVec n) : codeOperand v.toFin = v.zeroExtend 32 := by
  apply BitVec.eq_of_toNat_eq
  rw [codeOperand, BitVec.toNat_ofNat, BitVec.zeroExtend_eq_setWidth, BitVec.toNat_setWidth]
  rfl

section
variable {bytes : List Byte}

theorem decodeBytes_of_modRm_test {value : BitVec 40} {k : X86Reg → X86Reg → Instr}
    (hr : ⟨value, 0xC0FF, fun w => some (k (x86Field w 8) (x86Field w 11))⟩ ∈ x86Rows)
    (h0 : byteAt bytes 0 = value.extractLsb' 0 8) (h1 : (byteAt bytes 1).extractLsb' 6 2 = 0b11#2) :
    decodeBytes .x86 bytes =
      .instr (k ((byteAt bytes 1).extractLsb' 0 3).toFin ((byteAt bytes 1).extractLsb' 3 3).toFin) :=
  decodeBytes_modRm hr h0 ((encodeModRm_of_mode h1).symm.trans (encodeModRm_eq_ofNat _ _))

theorem decodeBytes_of_movImmediate_test (h : (byteAt bytes 0).extractLsb' 3 5 = 0b10111#5) :
    decodeBytes .x86 bytes = .instr (.x86MovRI ((byteAt bytes 0).extractLsb' 0 3).toFin (wordAt bytes 1)) :=
  decodeBytes_movImmediate ((encodeOpReg_of_upper h).symm.trans (encodeOpReg_eq_ofNat _ _))

theorem decodeBytes_of_push_test (h : (byteAt bytes 0).extractLsb' 3 5 = 0b01010#5) :
    decodeBytes .x86 bytes = .instr (.x86Push ((byteAt bytes 0).extractLsb' 0 3).toFin) :=
  decodeBytes_stackOpcode (x86Rows_mem 4) (op := 0x50) (by decide) rfl
    ((encodeOpReg_of_upper h).symm.trans (encodeOpReg_eq_ofNat _ _))

theorem decodeBytes_of_pop_test (h : (byteAt bytes 0).extractLsb' 3 5 = 0b01011#5) :
    decodeBytes .x86 bytes = .instr (.x86Pop ((byteAt bytes 0).extractLsb' 0 3).toFin) :=
  decodeBytes_stackOpcode (x86Rows_mem 5) (op := 0x58) (by decide) rfl
    ((encodeOpReg_of_upper h).symm.trans (encodeOpReg_eq_ofNat _ _))

/-! ## Bytes that decode pass a test -/

/-- The bytes an x86 instruction was decoded from, one by one. -/
theorem byteAt_of_decodeX86 {i : Instr} (h : decodeX86 bytes = some i) {k : Nat} (hk : k < i.size) :
    byteAt bytes k = byteAt (encode i) k := by
  obtain ⟨-, hencode⟩ := encode_of_decodeX86 h
  simp [hencode, byteAt, hk]

theorem opcode_of_encodeOpReg {op : BitVec 5} {r : X86Reg} (h : byteAt bytes 0 = encodeOpReg op r) :
    (byteAt bytes 0).extractLsb' 3 5 = op := by
  rw [h]
  exact BitVec.extractLsb'_append_eq_left

theorem mode_of_encodeModRm {d s : X86Reg} (h : byteAt bytes 1 = encodeModRm d s) :
    (byteAt bytes 1).extractLsb' 6 2 = 0b11#2 := by
  rw [h]
  exact (BitVec.extractLsb'_append_eq_of_le (by decide)).trans BitVec.extractLsb'_append_eq_left

/-! ## The records -/

/-- The x86 record of bytes that decode to an instruction (R49). -/
theorem recordOf_x86_of_row {i : Instr} {operands : List Word} {size : Nat} {type : String}
    (h : decodeBytes .x86 bytes = .instr i) (hrow : (operandsOf i, i.size, i.mnemonic) = (operands, size, type)) :
    recordOf .x86 bytes = ⟨(byteAt bytes 0).zeroExtend 32, operands, size, type⟩ := by
  cases hrow
  exact recordOf_of_instr h

end

theorem eq_ite_of {α : Type} {p : Prop} [Decidable p] {r x y : α} (hx : p → r = x) (hy : ¬p → r = y) :
    r = if p then x else y := by
  split
  next h => exact hx h
  next h => exact hy h

/-- Settles O9: a test that holds names the row that matches, and where every test fails no instruction's encoding is
there. -/
theorem x86TableRecordIsTheProcedureRecord : Obligations.X86TableRecordIsTheProcedureRecord := by
  intro bytes
  simp only [x86ProcedureRecord, beq_iff_eq, ← codeOperand_toFin (n := 3)]
  refine
    eq_ite_of (fun h => recordOf_x86_of_row (decodeBytes_of_movImmediate_test h) rfl) fun hMovRI =>
    eq_ite_of (fun h => recordOf_x86_of_row (decodeBytes_of_modRm_test (x86Rows_mem 1) h.1 h.2) rfl) fun hMovRR =>
    eq_ite_of (fun h => recordOf_x86_of_row (decodeBytes_of_modRm_test (x86Rows_mem 2) h.1 h.2) rfl) fun hAdd =>
    eq_ite_of (fun h => recordOf_x86_of_row (decodeBytes_of_modRm_test (x86Rows_mem 3) h.1 h.2) rfl) fun hSub =>
    eq_ite_of (fun h => recordOf_x86_of_row (decodeBytes_of_push_test h) rfl) fun hPush =>
    eq_ite_of (fun h => recordOf_x86_of_row (decodeBytes_of_pop_test h) rfl) fun hPop =>
    eq_ite_of (fun h => recordOf_x86_of_row (decodeBytes_opcodeByte (x86Rows_mem 6) h rfl) rfl) fun hRet =>
    eq_ite_of (fun h => recordOf_x86_of_row (decodeBytes_x86Int h) rfl) fun hInt =>
    eq_ite_of (fun h => recordOf_x86_of_row (decodeBytes_disp32 (x86Rows_mem 8) h) rfl) fun hJmp =>
    eq_ite_of (fun h => recordOf_x86_of_row (decodeBytes_disp32 (x86Rows_mem 9) h) rfl) fun hCall =>
    eq_ite_of (fun h => recordOf_x86_of_row (decodeBytes_opcodeByte nopRow_mem h rfl) rfl) fun hNop => ?_
  cases hdec : decodeX86 bytes with
  | none => exact recordOf_of_none (arch := .x86) hdec
  | some i =>
    have opcode := byteAt_of_decodeX86 (k := 0) hdec
    have modRm := byteAt_of_decodeX86 (k := 1) hdec
    cases i with
    | x86MovRI => exact absurd (opcode_of_encodeOpReg (opcode (Nat.succ_pos _))) hMovRI
    | x86MovRR => exact absurd ⟨opcode (Nat.succ_pos _), mode_of_encodeModRm (modRm (Nat.le_refl 2))⟩ hMovRR
    | x86AddRR => exact absurd ⟨opcode (Nat.succ_pos _), mode_of_encodeModRm (modRm (Nat.le_refl 2))⟩ hAdd
    | x86SubRR => exact absurd ⟨opcode (Nat.succ_pos _), mode_of_encodeModRm (modRm (Nat.le_refl 2))⟩ hSub
    | x86Push => exact absurd (opcode_of_encodeOpReg (opcode (Nat.succ_pos _))) hPush
    | x86Pop => exact absurd (opcode_of_encodeOpReg (opcode (Nat.succ_pos _))) hPop
    | x86Ret => exact absurd (opcode (Nat.succ_pos _)) hRet
    | x86Int => exact absurd (opcode (Nat.succ_pos _)) hInt
    | x86Jmp => exact absurd (opcode (Nat.succ_pos _)) hJmp
    | x86Call => exact absurd (opcode (Nat.succ_pos _)) hCall
    | x86Nop => exact absurd (opcode (Nat.succ_pos _)) hNop
    | _ => cases decodeInstr_arch (arch := .x86) hdec

end Sys2Proof.Machine
end

section
/-! SUPPORT. The code buffer past its end (30_encoding R81), and words written out from the tables. -/

namespace Sys2Proof

/-- Zero bytes at the end of the buffer are what a decode reads there anyway. -/
theorem codeByte_append_zeros (code : List Byte) (n : Nat) (a : Word) :
    codeByte (code ++ List.replicate n 0) a = codeByte code a := by
  rw [codeByte, codeByte, List.getD_eq_getElem?_getD, List.getD_eq_getElem?_getD]
  rcases Nat.lt_or_ge a.toNat code.length with h | h
  · rw [List.getElem?_append_left h]
  · rw [List.getElem?_append_right h, List.getElem?_eq_none h, List.getElem?_replicate]
    split
    next => rfl
    next => rfl

/-- Settles O12: a fetch reads the buffer through codeByte alone. -/
theorem decodeReadsZeroPastTheEnd : Obligations.DecodeReadsZeroPastTheEnd := by
  refine ⟨fun code a => ?_, fun arch code pc n => ?_⟩
  · rw [codeByte, List.getD_eq_getElem?_getD]
    split
    next h => rw [List.getElem?_eq_getElem h, Option.getD_some]
    next h => rw [List.getElem?_eq_none (Nat.le_of_not_lt h), Option.getD_none]
  · simp only [decode, fetchBytes, codeByte_append_zeros]

/-- Settles O11: the words are closed, so the decoder runs on them. -/
theorem wordsOfTheTablesDecode : Obligations.WordsOfTheTablesDecode := by
  unfold Obligations.WordsOfTheTablesDecode
  decide

end Sys2Proof
end

section
/-! SUPPORT. The assembler's displacements (30_encoding R117): each is the signed distance, and the machine adds it back modulo
2^32. -/

namespace Sys2Proof.Machine

/-- Adding a distance modulo 2^32 arrives at its end. -/
theorem ofNat_add_ofInt {addr target : Nat} {d : Int} (h : (addr : Int) + d = target) :
    BitVec.ofNat 32 addr + BitVec.ofInt 32 d = BitVec.ofNat 32 target := by
  rw [← BitVec.ofInt_natCast, ← BitVec.ofInt_add, h, BitVec.ofInt_natCast]

theorem armOffset_ofInt {d : Int} (hmul : d % 4 = 0) (hlo : -2 ^ 25 ≤ d) (hhi : d ≤ 2 ^ 25 - 4) :
    armOffset (BitVec.ofInt 24 (d / 4)) = BitVec.ofInt 32 d := by
  rw [armOffset_eq_ofInt, BitVec.toInt_ofInt_eq_self (by decide) (by omega) (by omega), Int.mul_ediv_cancel' (by omega)]

theorem rvImmJ_ofInt {d : Int} (hmul : d % 2 = 0) (hlo : -2 ^ 20 ≤ d) (hhi : d ≤ 2 ^ 20 - 2) :
    rvImmJ (BitVec.ofInt 20 (d / 2)) = BitVec.ofInt 32 d := by
  rw [rvImmJ_eq_ofInt, BitVec.toInt_ofInt_eq_self (by decide) (by omega) (by omega), Int.mul_ediv_cancel' (by omega)]

theorem x86Target_x86Displacement (target addr : Nat) :
    x86Target (BitVec.ofNat 32 addr) (x86Displacement target addr) = BitVec.ofNat 32 target := by
  have hend : BitVec.ofNat 32 addr + 5 = BitVec.ofNat 32 (addr + 5) := (BitVec.ofNat_add addr 5).symm
  rw [x86Target, hend, x86Displacement]
  exact ofNat_add_ofInt (by omega)

theorem armTarget_of_armDisplacement {target addr : Nat} {v : BitVec 24} (h : armDisplacement target addr = .ok v) :
    armTarget (BitVec.ofNat 32 addr) v = BitVec.ofNat 32 target := by
  have hpc : BitVec.ofNat 32 addr + 8 = BitVec.ofNat 32 (addr + 8) := (BitVec.ofNat_add addr 8).symm
  unfold armDisplacement at h
  extract_lets d at h
  split at h
  next hd =>
    obtain ⟨hmul, hlo, hhi⟩ := hd
    cases h
    rw [armTarget, hpc, armOffset_ofInt hmul hlo hhi]
    exact ofNat_add_ofInt (by omega)
  next => cases h

theorem rvImmJ_of_rvDisplacement {target addr : Nat} {half : BitVec 20} (h : rvDisplacement target addr = .ok half) :
    BitVec.ofNat 32 addr + rvImmJ half = BitVec.ofNat 32 target := by
  unfold rvDisplacement at h
  extract_lets d at h
  split at h
  next hd =>
    obtain ⟨hmul, hlo, hhi⟩ := hd
    cases h
    rw [rvImmJ_ofInt hmul hlo hhi]
    exact ofNat_add_ofInt (by omega)
  next => cases h

/-- Settles O60: the machine's target adds back the distance the assembler took, and the range test is that of R117. -/
theorem displacementReachesTheLabel : Obligations.DisplacementReachesTheLabel := by
  intro target addr
  refine ⟨x86Target_x86Displacement target addr, fun _ => armTarget_of_armDisplacement,
    fun _ => rvImmJ_of_rvDisplacement, ?arm, ?riscv⟩
  case arm | riscv =>
    intro d
    split
    next h => exact ⟨_, if_pos h⟩
    next h => exact if_neg h

end Sys2Proof.Machine
end

section
/-! SUPPORT. The forms of the assembler (30_encoding R111, R118 to R122): the architecture a form is of and the size it resolves
to. -/

namespace Sys2Proof.Machine

/-- Whether a form stands for instructions of the architecture; one with nothing left to resolve must be well formed too. -/
def Form.fits (arch : Arch) : Form → Bool
  | .ready i => i.wellFormed && i.arch == arch
  | .x86MovImm _ _ | .x86IntImm _ | .x86JmpTo _ | .x86CallTo _ => arch == .x86
  | .armMovImm _ _ | .armBTo _ | .armBLTo _ | .armSvcImm _ => arch == .arm
  | .rvLuiImm _ _ | .rvAddiImm _ _ _ | .rvLwImm _ _ _ | .rvSwImm _ _ _ | .rvJalTo _ _ | .rvJalrImm _ _ _ =>
    arch == .riscv

/-! ## The forms of each architecture -/

theorem x86Form_fits {mnemonic : String} {ops : List Operand} {f : Form} (h : x86Form mnemonic ops = some f) :
    f.fits .x86 = true := by
  unfold x86Form at h
  split at h
  case h_12 => cases h
  all_goals
    cases h
    rfl

/-- PUSH and POP take no r13, so their instructions are well formed (R201). -/
theorem armForm_fits {mnemonic : String} {ops : List Operand} {f : Form} (h : armForm mnemonic ops = some f) :
    f.fits .arm = true := by
  unfold armForm at h
  split at h
  case h_7 | h_8 =>
    split at h
    next => cases h
    next hne =>
      cases h
      simp [Form.fits, Instr.wellFormed, Instr.arch, hne]
  case h_11 =>
    split at h
    next =>
      cases h
      rfl
    next => cases h
  case h_13 => cases h
  all_goals
    cases h
    rfl

/-- The RISC-V mnemonics all at once: the shape of the operands decides each of their forms. -/
theorem rvForm_all_fits (ops : List Operand) :
    (mnemonicsOf .riscv).all (fun mnemonic => (rvForm mnemonic ops).all (Form.fits .riscv)) = true := by
  rcases ops with _ | ⟨a, ops⟩
  · rfl
  cases a with
  | reg r =>
    cases r with
    | riscv rd =>
      rcases ops with _ | ⟨b, ops⟩
      · rfl
      cases b with
      | reg r =>
        cases r with
        | riscv rs =>
          rcases ops with _ | ⟨c, ops⟩
          · rfl
          cases c with
          | reg r => cases r <;> cases ops <;> rfl
          | _ => cases ops <;> rfl
        | _ => cases ops <;> rfl
      | based n r => cases r <;> cases ops <;> rfl
      | _ => cases ops <;> rfl
    | _ => rfl
  | label => cases ops <;> rfl
  | _ => rfl

theorem rvForm_fits {mnemonic : String} {ops : List Operand} {f : Form} (hm : mnemonic ∈ mnemonicsOf .riscv)
    (h : rvForm mnemonic ops = some f) :
    f.fits .riscv = true := by
  have hall := List.all_eq_true.mp (rvForm_all_fits ops) mnemonic hm
  rwa [h] at hall

theorem formOf_fits {arch : Arch} {mnemonic : String} {ops : List (List Char)} {f : Form}
    (h : formOf arch mnemonic ops = .ok f) : f.fits arch := by
  unfold formOf at h
  extract_lets low classified form at h
  split at h
  next hm =>
    cases hg : form with
    | none =>
      rw [hg] at h
      cases h
    | some g =>
      rw [hg] at h
      cases h
      cases arch with
      | x86 => exact x86Form_fits hg
      | arm => exact armForm_fits hg
      | riscv => exact rvForm_fits (List.contains_iff_mem.mp hm) hg
  next => cases h

end Sys2Proof.Machine
end

section
/-! SUPPORT. What a form resolves to, and that a supported line decodes back (30_encoding R112, R124). -/

namespace Sys2Proof.Machine

section
variable {ε α β : Type} {r : Except ε α} {b : β}

theorem except_map_ok (g : α → β) (a : α) : (.ok a : Except ε α).map g = .ok (g a) := rfl

theorem except_map_eq_ok {g : α → β} : r.map g = .ok b ↔ ∃ a, r = .ok a ∧ g a = b := by
  cases r <;> simp [Except.map]

theorem except_bind_eq_ok {g : α → Except ε β} : r.bind g = .ok b ↔ ∃ a, r = .ok a ∧ g a = .ok b := by
  cases r <;> simp [Except.bind]

end

/-- A form resolves to a well-formed instruction of its architecture and its size, whatever the labels are (R111). -/
theorem Form.resolve_fits {arch : Arch} {f : Form} {addr : Nat} {labels : Labels} {i : Instr}
    (hfits : f.fits arch = true) (h : f.resolve addr labels = .ok i) :
    i.wellFormed = true ∧ i.arch = arch ∧ i.size = f.size := by
  cases f
  case ready j =>
    cases h
    obtain ⟨hwf, harch⟩ := Bool.and_eq_true_iff.mp hfits
    exact ⟨hwf, eq_of_beq harch, rfl⟩
  all_goals have harch := (eq_of_beq hfits).symm
  case x86MovImm | x86IntImm | armMovImm | armSvcImm | rvLuiImm =>
    rw [Form.resolve] at h
    split at h
    next =>
      cases h
      exact ⟨rfl, harch, rfl⟩
    next => cases h
  case x86JmpTo | x86CallTo | rvAddiImm | rvLwImm | rvSwImm | rvJalrImm =>
    obtain ⟨_, -, rfl⟩ := except_map_eq_ok.mp h
    exact ⟨rfl, harch, rfl⟩
  case armBTo | armBLTo | rvJalTo =>
    obtain ⟨_, -, hd⟩ := except_bind_eq_ok.mp h
    obtain ⟨_, -, rfl⟩ := except_map_eq_ok.mp hd
    exact ⟨rfl, harch, rfl⟩

/-- Settles O59: the mnemonic and the operands' shapes fix the form, the form fixes the kind of instruction, and its bytes decode
to it by O6. -/
theorem assembledLineDecodesBack : Obligations.AssembledLineDecodesBack := by
  intro arch mnemonic ops f addr labels i hform hresolve
  obtain ⟨hwf, harch, hsize⟩ := Form.resolve_fits (formOf_fits hform) hresolve
  have hdecode := decodeOfEncodeIsTheInstruction i [] hwf
  rw [List.append_nil, harch] at hdecode
  exact ⟨hwf, harch, hsize, hdecode⟩

end Sys2Proof.Machine
end

section
/-! SUPPORT. The two passes against validate (30_encoding R110, R111, R112, R123): each line is read by the same functions, so the
passes fail on a line exactly when validate reports it. -/

namespace Sys2Proof.Machine

variable {arch : Arch} {n addr : Nat} {line : Line} {rest : List (Nat × Line)} {labels all seen : Labels}

/-! ## One line -/

/-- Pass 1 goes on past a line exactly when its label and its instruction are both read. -/
theorem passOne_cons_eq_ok {final : Labels} :
    passOne arch ((n, line) :: rest) addr labels = .ok final ↔
      ∃ labels' form, defineLabel labels addr line = .ok labels' ∧ lineForm arch line = .ok form ∧
        passOne arch rest (addr + formSize form) labels' = .ok final := by
  rw [passOne]
  cases defineLabel labels addr line <;> cases lineForm arch line <;> simp

theorem passTwo_cons_eq_ok {bytes : List Byte} :
    passTwo arch all ((n, line) :: rest) addr = .ok bytes ↔
      ∃ form head tail, lineForm arch line = .ok form ∧ emitForm all addr form = .ok head ∧
        passTwo arch all rest (addr + formSize form) = .ok tail ∧ head ++ tail = bytes := by
  rw [passTwo]
  cases hform : lineForm arch line with
  | error e => simp [Except.bind]
  | ok form =>
    cases hemit : emitForm all addr form with
    | error e => simp [Except.bind, Except.map, hemit]
    | ok head => simp [Except.bind, hemit, except_map_ok, except_map_eq_ok]

/-- validate reports nothing of a line exactly when its label, its instruction and its bytes are all there. -/
theorem diagnose_cons_eq_nil :
    diagnose arch all ((n, line) :: rest) addr seen = [] ↔
      ∃ seen' form head, defineLabel seen addr line = .ok seen' ∧ lineForm arch line = .ok form ∧
        emitForm all addr form = .ok head ∧ diagnose arch all rest (addr + formSize form) seen' = [] := by
  rw [diagnose]
  cases hlabel : defineLabel seen addr line with
  | error e => simp
  | ok seen' =>
    cases hform : lineForm arch line with
    | error e => simp [Except.bind]
    | ok form => cases hemit : emitForm all addr form <;> simp [Except.bind, Except.toOption, hemit]

/-! ## All lines -/

/-- Where pass 1 succeeds, validate collects the same labels. -/
theorem collectLabels_of_passOne {lines : List (Nat × Line)} {final : Labels}
    (h : passOne arch lines addr labels = .ok final) : collectLabels arch lines addr labels = final := by
  induction lines generalizing addr labels with
  | nil => exact Except.ok.inj h
  | cons p rest ih =>
    obtain ⟨labels', form, hlabel, hform, hrest⟩ := passOne_cons_eq_ok.mp h
    rw [collectLabels, hlabel, hform]
    exact ih hrest

/-- Against one label table, validate reports nothing exactly when both passes succeed. -/
theorem diagnose_eq_nil_iff {lines : List (Nat × Line)} :
    diagnose arch all lines addr seen = [] ↔
      (∃ final, passOne arch lines addr seen = .ok final) ∧ ∃ bytes, passTwo arch all lines addr = .ok bytes := by
  induction lines generalizing addr seen with
  | nil => simp [diagnose, passOne, passTwo]
  | cons p rest ih =>
    obtain ⟨n, line⟩ := p
    simp only [diagnose_cons_eq_nil, passOne_cons_eq_ok, passTwo_cons_eq_ok, ih]
    constructor
    · rintro ⟨seen', form, head, hlabel, hform, hemit, ⟨final, hone⟩, tail, htwo⟩
      exact ⟨⟨final, seen', form, hlabel, hform, hone⟩, _, form, head, tail, hform, hemit, htwo, rfl⟩
    · rintro ⟨⟨final, seen', form, hlabel, hform, hone⟩, _, form', head, tail, hform', hemit, htwo, rfl⟩
      cases hform.symm.trans hform'
      exact ⟨seen', form, head, hlabel, hform, hemit, ⟨final, hone⟩, tail, htwo⟩

theorem assembleLines_eq_ok {lines : List (Nat × Line)} {bytes : List Byte} :
    assembleLines arch lines = .ok bytes ↔
      ∃ final, passOne arch lines 0 [] = .ok final ∧ passTwo arch final lines 0 = .ok bytes := except_bind_eq_ok

/-- Settles O58: the passes and validate read each line alike, and where pass 1 succeeds they work with the same labels. -/
theorem validExactlyWhenAssembled : Obligations.ValidExactlyWhenAssembled := by
  intro arch lines
  simp only [validateLines, diagnose_eq_nil_iff, assembleLines_eq_ok]
  constructor
  · rintro ⟨⟨final, hone⟩, bytes, htwo⟩
    rw [collectLabels_of_passOne hone] at htwo
    exact ⟨bytes, final, hone, htwo⟩
  · rintro ⟨bytes, final, hone, htwo⟩
    rw [collectLabels_of_passOne hone]
    exact ⟨⟨final, hone⟩, bytes, htwo⟩

end Sys2Proof.Machine
end
